-- ==== Sys2Proof/Word.lean ====
section
/-!
DEFINITION. The word types of the block (spec 00_scope.md R8, R9): bytes, 16-bit command words and
32-bit result words. Every value of the block is unsigned.
-/
namespace Sys2Proof

/-- A byte: 8 bits (R8). -/
abbrev Byte := BitVec 8

/-- A command word on a port: 16 bits (R70). -/
abbrev CommandWord := BitVec 16

/-- A result word on a port: 32 bits (R72). -/
abbrev ResultWord := BitVec 32

end Sys2Proof
end

