-- ==== Sys2Proof/Config.lean ====
section
/-!
DEFINITION. What is fixed for an instance of the block: its two command ports (10_state.md R20), the
parameter `CAP` and the constants of 00_scope.md R6, the fault codes of 60_exceptions.md R161, and the
free bytes that stand for storage the spec leaves unspecified (R180).
-/
namespace Sys2Proof

/-- The two command ports: the producer's P port and the consumer's Q port (R20). -/
inductive Port where
  | p
  | q
  deriving DecidableEq, Repr

/-- The three faults of the block (R161). -/
inductive FaultCode where
  | illegalOp
  | wrongPort
  | popEmpty
  deriving DecidableEq, Repr

/-- The three internal byte arrays (R50). -/
inductive Space where
  | fifo
  | accbuf
  | frame
  deriving DecidableEq, Repr

/-- The build of an instance: the number of FIFO slots `CAP`, with `2 <= CAP <= 256` (R6, R7, R183). -/
structure Build where
  cap : Nat
  two_le_cap : 2 ≤ cap
  cap_le_256 : cap ≤ 256
  deriving DecidableEq, Repr

/-- The reference sizing, `CAP = 64` (R6). DESIGN CHOICE (log 1) for the instance of `State.reset`. -/
def Build.reference : Build := ⟨64, by decide, by decide⟩

/-- `FRAME_LEN`, bytes in a frame (R6). -/
abbrev Config.frameLen : Nat := 32

/-- `HDR0`, the first header byte (R6). -/
abbrev Config.hdr0 : Byte := 0x20#8

/-- `HDR1`, the second header byte (R6). -/
abbrev Config.hdr1 : Byte := 0x40#8

/-- `NCHAN`, channel slots in a frame (R6). -/
abbrev Config.nChan : Nat := 14

/-- `CH_BASE`, the offset of channel 1 (R6). -/
abbrev Config.chBase : Nat := 2

/-- `SENTINEL`, the decode result for an out-of-range channel (R6). -/
abbrev Config.sentinel : ResultWord := 1500#32

/-- `SCAN_FIRST`, the first start index of the embedded-header scan (R6). -/
abbrev Config.scanFirst : Nat := 2

/-- `SCAN_LAST`, the last start index of a scanned pair (R6, R123; log 7). -/
abbrev Config.scanLast : Nat := 30

/-- A free value: the byte that a storage cell holds when nothing has written it since reset. The spec
leaves it "any value" (R25, R30, R31, R180; 93_implementation_defined.md I2, I3, I4). It depends on the
array, on how many host resets have happened, and on the index, so a cell keeps one byte between two
resets (R58: reads are idempotent). It has no body: nothing can be proved of its value (log 5). -/
opaque Config.unspecifiedByte : Space → Nat → Nat → Byte

end Sys2Proof
end

