-- ==== Sys2Proof/Syntax.lean ====
section
/-!
DEFINITION. The operations of the block: one constructor for each row of spec/opcode_table.json
(30_encoding.md R73, R74). Operands are the fields of R71 at their encoded width, so every value of
`Instr` is encodable; an operand written out of range is an assembly error (WellFormed.lean, R81).
-/
namespace Sys2Proof

/-- The eight operations (R73). -/
inductive Instr where
  /-- `RX_PUSH b`: append one byte to the ring buffer (R100). -/
  | rxPush (b : Byte)
  /-- `FIFO_AVAIL`: is a byte available (R101). -/
  | fifoAvail
  /-- `FIFO_POP`: remove and return the oldest byte (R102). -/
  | fifoPop
  /-- `FRAMER_STEP`: run the framer on at most one byte (R126). -/
  | framerStep
  /-- `FRAMER_POLL`: run the framer until a frame or an empty FIFO (R127). -/
  | framerPoll
  /-- `FRAME_READ i`: read one byte of the frame register (R140). -/
  | frameRead (i : BitVec 5)
  /-- `CHAN_DECODE ch`: decode one channel value (R141). -/
  | chanDecode (ch : BitVec 8)
  /-- `STATUS_READ`: read the status view (R142). -/
  | statusRead
  deriving DecidableEq, Repr

end Sys2Proof
end

