-- ==== Sys2Proof/Decode.lean ====
section
/-!
DEFINITION. The command word: its fields, the opcode table, the decoder and the encoder
(30_encoding.md R70 to R78). Decoding is total: every one of the 65536 words selects one operation or is
refused by name.
-/
namespace Sys2Proof

/-- `OP = w[15:12]` (R70). -/
def opField (w : CommandWord) : BitVec 4 := w.extractLsb' 12 4

/-- `RSV = w[11:8]` (R70). -/
def rsvField (w : CommandWord) : BitVec 4 := w.extractLsb' 8 4

/-- `IMM8 = w[7:0]` (R70). -/
def immField (w : CommandWord) : BitVec 8 := w.extractLsb' 0 8

/-- `i = IMM8[4:0]`, the index of the `IDX5` form (R71). -/
def idxField (imm : BitVec 8) : BitVec 5 := imm.extractLsb' 0 5

/-- `IMM8[7:5]`, which the `IDX5` form requires to be zero (R71). -/
def idxHighField (imm : BitVec 8) : BitVec 3 := imm.extractLsb' 5 3

/-- Why a word is illegal (R75). -/
inductive DecodeError where
  /-- `OP` is 0x0 or 0x9 .. 0xF. -/
  | reservedOp
  /-- `RSV` is not zero. -/
  | reservedBits
  /-- `IMM8` is not zero in a `none`-form operation. -/
  | operandOnNoneForm
  /-- `IMM8[7:5]` is not zero in a `FRAME_READ`. -/
  | indexAbove31
  deriving DecidableEq, Repr

/-- A `none`-form operation: its `IMM8` must be zero (R71, R78). -/
def noOperand (imm : BitVec 8) (i : Instr) : Except DecodeError Instr :=
  if imm = 0#8 then .ok i else .error .operandOnNoneForm

/-- The operation a word selects, whatever its port, by the checks of R78 in their order. -/
def decodeWord (w : CommandWord) : Except DecodeError Instr :=
  let op := opField w
  let imm := immField w
  if op = 0x0#4 ∨ 0x9#4 ≤ op then .error .reservedOp
  else if rsvField w ≠ 0x0#4 then .error .reservedBits
  else if op = 0x1#4 then .ok (.rxPush imm)
  else if op = 0x2#4 then noOperand imm .fifoAvail
  else if op = 0x3#4 then noOperand imm .fifoPop
  else if op = 0x4#4 then noOperand imm .framerStep
  else if op = 0x5#4 then noOperand imm .framerPoll
  else if op = 0x6#4 then
    if idxHighField imm = 0#3 then .ok (.frameRead (idxField imm)) else .error .indexAbove31
  else if op = 0x7#4 then .ok (.chanDecode imm)
  else noOperand imm .statusRead

/-- The port an operation is bound to (R21, R73). -/
def Instr.port : Instr → Port
  | .rxPush _ => .p
  | .fifoAvail => .q
  | .fifoPop => .q
  | .framerStep => .q
  | .framerPoll => .q
  | .frameRead _ => .q
  | .chanDecode _ => .q
  | .statusRead => .q

/-- `decode(port, w)` of R78: an illegal word is `ILLEGAL_OP`, a legal word on the wrong port is
`WRONG_PORT`, in that order. -/
def decode (port : Port) (w : CommandWord) : Except FaultCode Instr :=
  match decodeWord w with
  | .error _ => .error .illegalOp
  | .ok i => if i.port = port then .ok i else .error .wrongPort

/-- The host's view of the decoder: the instruction whose bits are `w`, every bit at or above `nbits`
zero. A command is one 16-bit word with no byte order (R55, R70); bits above it make no command. -/
def decodeTableWord (nbits w : Nat) : Option Instr :=
  let word := w % 2 ^ nbits
  if word < 2 ^ 16 then
    match decodeWord (BitVec.ofNat 16 word) with
    | .ok i => some i
    | .error _ => none
  else none

/-- One row of the opcode map (R73). -/
structure OpcodeRow where
  port : Port
  pattern : CommandWord
  mask : CommandWord
  deriving DecidableEq, Repr

/-- A word selects a row when `(word & mask) == match` (R73). -/
def OpcodeRow.selects (r : OpcodeRow) (w : CommandWord) : Bool := w &&& r.mask == r.pattern

/-- The opcode map of R73, row by row, with the `match` and `mask` values of opcode_table.json. -/
def opcodeTable : List OpcodeRow :=
  [ ⟨.p, 0x1000#16, 0xFF00#16⟩
  , ⟨.q, 0x2000#16, 0xFFFF#16⟩
  , ⟨.q, 0x3000#16, 0xFFFF#16⟩
  , ⟨.q, 0x4000#16, 0xFFFF#16⟩
  , ⟨.q, 0x5000#16, 0xFFFF#16⟩
  , ⟨.q, 0x6000#16, 0xFFE0#16⟩
  , ⟨.q, 0x7000#16, 0xFF00#16⟩
  , ⟨.q, 0x8000#16, 0xFFFF#16⟩ ]

/-- The row of each operation (R73). -/
def Instr.row : Instr → OpcodeRow
  | .rxPush _ => ⟨.p, 0x1000#16, 0xFF00#16⟩
  | .fifoAvail => ⟨.q, 0x2000#16, 0xFFFF#16⟩
  | .fifoPop => ⟨.q, 0x3000#16, 0xFFFF#16⟩
  | .framerStep => ⟨.q, 0x4000#16, 0xFFFF#16⟩
  | .framerPoll => ⟨.q, 0x5000#16, 0xFFFF#16⟩
  | .frameRead _ => ⟨.q, 0x6000#16, 0xFFE0#16⟩
  | .chanDecode _ => ⟨.q, 0x7000#16, 0xFF00#16⟩
  | .statusRead => ⟨.q, 0x8000#16, 0xFFFF#16⟩

/-- Puts `OP`, `RSV` and `IMM8` together (R70). -/
def commandWord (op rsv : BitVec 4) (imm : BitVec 8) : CommandWord := (op ++ rsv) ++ imm

/-- The word of each operation, from the bit patterns of R73. -/
def encode : Instr → CommandWord
  | .rxPush b => commandWord 0x1#4 0x0#4 b
  | .fifoAvail => commandWord 0x2#4 0x0#4 0#8
  | .fifoPop => commandWord 0x3#4 0x0#4 0#8
  | .framerStep => commandWord 0x4#4 0x0#4 0#8
  | .framerPoll => commandWord 0x5#4 0x0#4 0#8
  | .frameRead i => commandWord 0x6#4 0x0#4 (0#3 ++ i)
  | .chanDecode ch => commandWord 0x7#4 0x0#4 ch
  | .statusRead => commandWord 0x8#4 0x0#4 0#8

end Sys2Proof
end

