-- ==== Sys2Proof/Machine/State.lean ====
section
/-!
DEFINITION. The state of the block (10_state.md R22), the reasons a step can stop, and the state after
reset (70_reset_and_hazards.md R180, R181).
-/
namespace Sys2Proof.Machine

/-- The framer's two states; `FSTATE` reads 0 and 1 (R28). -/
inductive FramerState where
  | seekingHeader
  | accumulating
  deriving DecidableEq, Repr

/-- What an agent does next (R20, R59): a command word on a port, the consumer's turn to take the next
micro-step of its poll in flight (R127), or the host's reset (R180). -/
inductive AgentAction where
  | command (port : Port) (word : CommandWord)
  | pollTurn
  | reset
  deriving DecidableEq, Repr

/-- One of the block's byte arrays (R50): the cells written since reset, as (index, byte) pairs with
strictly rising indices. A cell that is not listed has not been written since reset (log 6). -/
abbrev Memory := List Host.Cell

/-- The state of the block. The fields from `head` to `pollInFlight` are the elements of R22; `build` is
the configuration (R6, R7), which no step writes; the last four are the model's own (log 2, 4, 5). -/
structure State where
  /-- The instance's `CAP` (R6). -/
  build : Build
  /-- `HEAD`, the producer's index (R23). -/
  head : BitVec 8
  /-- `TAIL`, the consumer's index (R24). -/
  tail : BitVec 8
  /-- `FIFO[0..CAP-1]` (R25). -/
  fifo : Memory
  /-- `FSTATE` (R28). -/
  fstate : FramerState
  /-- `POS` (R29). -/
  pos : BitVec 5
  /-- `ACCBUF[0..31]` (R30). -/
  accbuf : Memory
  /-- `FRAME[0..31]`, the frame register (R31). -/
  frame : Memory
  /-- `FRAME_VALID` (R32). -/
  frameValid : Bool
  /-- `FAULT`, the code of the first fault since reset, 0 if none (R33). -/
  fault : BitVec 4
  /-- A `FRAMER_POLL` has begun and not returned (R38). -/
  pollInFlight : Bool
  /-- MODEL: the result of the last P command that returned (R72, R79). -/
  pResult : Option ResultWord
  /-- MODEL: the result of the last Q command, none while a poll has not returned (R72, R79, R127). -/
  qResult : Option ResultWord
  /-- MODEL: the agents' coming actions, in the order of the interleaving (R34, R59). -/
  inputs : List AgentAction
  /-- MODEL: the number of host resets so far, which unspecified bytes are drawn with (R180). -/
  epoch : Nat
  deriving DecidableEq, Repr

/-- The reasons the model stops with a fault. The block's own faults (R161) are no stops: the block goes on
after them (R163), and they are next states. -/
inductive Fault where
  /-- Raised by an access to a FIFO slot whose index is not below `CAP`: no such slot exists (R25, R50).
  SAFE: `HEAD < CAP` and `TAIL < CAP` hold from reset on (R27), so no run reaches it (log 8). -/
  | absentSlot (index : Nat)
  deriving DecidableEq, Repr

/-- The reasons the model refuses an operation. -/
inductive Refusal where
  /-- Raised by an arm of `exec` whose instruction has no meaning yet; no arm does. SAFE. -/
  | notModelled (mnemonic : String)
  deriving DecidableEq, Repr

/-- The machine right after reset (R180, R181), with `CAP` at its reference value (log 1), no action of an
agent to come and no result returned (log 2, log 4). The three byte arrays list nothing: their contents
are unspecified (R25, R30, R31; log 5). -/
def State.reset : State where
  build := Build.reference
  head := 0#8
  tail := 0#8
  fifo := []
  fstate := .seekingHeader
  pos := 0#5
  accbuf := []
  frame := []
  frameValid := false
  fault := 0#4
  pollInFlight := false
  pResult := none
  qResult := none
  inputs := []
  epoch := 0

end Sys2Proof.Machine
end

