-- ==== Sys2Proof/Machine/Ops.lean ====
section
/-!
DEFINITION. The named operations over the byte arrays, the ports and the state: reading and writing a cell,
index arithmetic, returning a result, raising a fault, and the host's reset.
-/
namespace Sys2Proof.Machine

/-- The byte written at index `i` since reset, if any. -/
def Memory.read? : Memory → Nat → Option Byte
  | [], _ => none
  | (a, b) :: m, i => if a = i then some b else Memory.read? m i

/-- Writes byte `b` at index `i`, keeping the indices strictly rising. -/
def Memory.write : Memory → Nat → Byte → Memory
  | [], i, b => [(i, b)]
  | (a, c) :: m, i, b =>
    if i < a then (i, b) :: (a, c) :: m
    else if i = a then (i, b) :: m
    else (a, c) :: Memory.write m i b

/-- The array that holds `bytes` from index `i` on. -/
def Memory.ofBytes : Nat → List Byte → Memory
  | _, [] => []
  | i, b :: bs => (i, b) :: Memory.ofBytes (i + 1) bs

/-- The canonical form of an array of `size` cells: every index is below `size`, and indices rise strictly.
(A cell that is not listed reads as no value at all, so no entry can equal it.) -/
def Memory.wf (size : Nat) : Memory → Bool
  | [] => true
  | [(a, _)] => decide (a < size)
  | (a, _) :: (a', b') :: m => decide (a < a') && Memory.wf size ((a', b') :: m)

/-- `CAP` of this instance (R6). -/
def State.cap (s : State) : Nat := s.build.cap

/-- `FIFO[i]`; a slot not written since reset holds an unspecified byte (R25). -/
def State.fifoByte (s : State) (i : Nat) : Byte :=
  (s.fifo.read? i).getD (Config.unspecifiedByte .fifo s.epoch i)

/-- `ACCBUF[i]`; a byte not written since reset is unspecified (R30). -/
def State.accByte (s : State) (i : Nat) : Byte :=
  (s.accbuf.read? i).getD (Config.unspecifiedByte .accbuf s.epoch i)

/-- `FRAME[i]`; before the first emit since reset it is unspecified (R31, R140). -/
def State.frameByte (s : State) (i : Nat) : Byte :=
  (s.frame.read? i).getD (Config.unspecifiedByte .frame s.epoch i)

/-- The index after `i`, `(i + 1) mod CAP`, on natural numbers (R23, R24, R106). -/
def State.advance (s : State) (i : BitVec 8) : BitVec 8 :=
  BitVec.ofNat 8 ((i.toNat + 1) % s.cap)

/-- The byte of FIFO slot `i`; only slots below `CAP` exist (R25; log 8). -/
def State.readSlot (s : State) (i : Nat) : Except Fault Byte :=
  if i < s.cap then .ok (s.fifoByte i) else .error (.absentSlot i)

/-- Writes FIFO slot `i`; only slots below `CAP` exist (R25; log 8). -/
def State.writeSlot (s : State) (i : Nat) (b : Byte) : Except Fault State :=
  if i < s.cap then .ok { s with fifo := s.fifo.write i b } else .error (.absentSlot i)

/-- `TAIL <- (TAIL + 1) mod CAP`: the byte of slot `TAIL` is consumed (R24, R102, R126). -/
def State.takeByte (s : State) : State := { s with tail := s.advance s.tail }

/-- Sets whether a poll is in flight and what the Q port has returned (R38). -/
def State.setPoll (s : State) (inFlight : Bool) (result : Option ResultWord) : State :=
  { s with pollInFlight := inFlight, qResult := result }

/-- Stores `ACCBUF[i] <- b` (R121, R122). -/
def State.storeAcc (s : State) (i : Nat) (b : Byte) : State :=
  { s with accbuf := s.accbuf.write i b }

/-- `POS <- p` (R29). -/
def State.setPos (s : State) (p : BitVec 5) : State := { s with pos := p }

/-- `FSTATE <- f` (R28). -/
def State.setFstate (s : State) (f : FramerState) : State := { s with fstate := f }

/-- Returns a result word on a port (R72). -/
def State.returned (s : State) (port : Port) (result : ResultWord) : State :=
  match port with
  | .p => { s with pResult := some result }
  | .q => { s with qResult := some result }

/-- The recorded code of a fault (R161). -/
def faultBits : FaultCode → BitVec 4
  | .illegalOp => 1#4
  | .wrongPort => 2#4
  | .popEmpty => 3#4

/-- `raise Fault(code)` on a port (R162): the first fault since reset is kept, the result is 0, and nothing
else changes. This is all of taking an exception on this hardware: there is no trap, no vector and no saved
state, and nothing to return from (R163). -/
def State.raiseFault (s : State) (port : Port) (code : FaultCode) : State :=
  { s with fault := if s.fault = 0#4 then faultBits code else s.fault }.returned port 0#32

/-- RESET, the host's atomic step (R180). The byte arrays take any value: nothing in them is written any more,
and the unspecified bytes are drawn anew (log 5). A poll in flight ends with no result. -/
def State.hostReset (s : State) : State :=
  { s with
    head := 0#8
    tail := 0#8
    fifo := []
    fstate := .seekingHeader
    pos := 0#5
    accbuf := []
    frame := []
    frameValid := false
    fault := 0#4
    pollInFlight := false
    epoch := s.epoch + 1 }

end Sys2Proof.Machine
end

