-- ==== Sys2Proof/Machine/Flags.lean ====
section
/-!
DEFINITION. The derived quantities of the ring buffer (10_state.md R26) and the status word (R36). The block
has no condition codes (R35).
-/
namespace Sys2Proof.Machine

/-- `EMPTY = (HEAD == TAIL)` (R26). -/
def State.isEmpty (s : State) : Bool := s.head == s.tail

/-- `COUNT = (HEAD - TAIL + CAP) mod CAP`, bytes held (R26). -/
def State.count (s : State) : Nat := (s.head.toNat + s.cap - s.tail.toNat) % s.cap

/-- `FULL = ((HEAD + 1) mod CAP == TAIL)` (R26). -/
def State.isFull (s : State) : Bool := s.advance s.head == s.tail

/-- `AVAIL = not EMPTY` (R26). -/
def State.avail (s : State) : Bool := !s.isEmpty

/-- The value of `FSTATE`: 0 or 1 (R28). -/
def FramerState.bit : FramerState → Bool
  | .seekingHeader => false
  | .accumulating => true

/-- A status field of `w` bits placed at bit `lo` of a result word (R142). -/
def statusField {w : Nat} (v : BitVec w) (lo : Nat) : ResultWord := v.setWidth 32 <<< lo

/-- The status word (R36, R142); bits 23:21 read 0. -/
def State.statusWord (s : State) : ResultWord :=
  statusField s.fault 28 ||| statusField (BitVec.ofBool s.isFull) 27
    ||| statusField (BitVec.ofBool s.avail) 26 ||| statusField (BitVec.ofBool s.frameValid) 25
    ||| statusField (BitVec.ofBool s.fstate.bit) 24 ||| statusField s.pos 16
    ||| statusField s.tail 8 ||| statusField s.head 0

end Sys2Proof.Machine
end

