-- ==== Sys2Proof/Machine/Operands.lean ====
section
/-!
DEFINITION. The operand forms that read the frame register (42_frame_readout.md R140, R141, R143) and the
results they give. The `D8` form is the byte itself (R71); the `none` form has no operand.
-/
namespace Sys2Proof.Machine

/-- `zext_32(v)` of a byte (R9, R79). -/
def zext32 {w : Nat} (v : BitVec w) : ResultWord := v.setWidth 32

/-- A Boolean result: 1 or 0 (R79). -/
def boolResult (b : Bool) : ResultWord := if b then 1#32 else 0#32

/-- The `IDX5` operand: the frame byte at index `i` (R71, R140). -/
def State.indexOperand (s : State) (i : BitVec 5) : Byte := s.frameByte i.toNat

/-- The offset of channel `ch`, `2 + (ch - 1) * 2`, used only for `1 <= ch <= 14` (R54, R143). -/
def channelOffset (ch : Nat) : Nat := Config.chBase + (ch - 1) * 2

/-- The half-word `(hi << 8) | lo` (R10, R54). -/
def halfWord (hi lo : Byte) : BitVec 16 := hi ++ lo

/-- The `CH8` operand: the little-endian value of a channel in range, else the sentinel (R71, R141). -/
def State.channelOperand (s : State) (ch : BitVec 8) : ResultWord :=
  if 1 ≤ ch.toNat ∧ ch.toNat ≤ Config.nChan then
    let off := channelOffset ch.toNat
    zext32 (halfWord (s.frameByte (off + 1)) (s.frameByte off))
  else Config.sentinel

end Sys2Proof.Machine
end

