-- ==== Sys2Proof/Machine/Fifo.lean ====
section
/-!
DEFINITION. The meanings of the byte receiver and ring buffer family: `RX_PUSH`, `FIFO_AVAIL`, `FIFO_POP`
(40_receiver_fifo.md R100 to R102).
-/
namespace Sys2Proof.Machine

/-- `RX_PUSH b` (R100): a full buffer drops the byte with result 0 and no other change; else the byte goes to
slot `HEAD` and `HEAD` advances. -/
def execRxPush (b : Byte) (s : State) : Host.Outcome State Fault Refusal :=
  if s.isFull then .next (s.returned .p 0#32)
  else
    match s.writeSlot s.head.toNat b with
    | .error f => .fault f
    | .ok s' => .next ({ s' with head := s.advance s.head }.returned .p 1#32)

/-- `FIFO_AVAIL` (R101): 1 when a byte is available. -/
def execFifoAvail (s : State) : Host.Outcome State Fault Refusal :=
  .next (s.returned .q (boolResult s.avail))

/-- `FIFO_POP` (R102): `POP_EMPTY` on an empty buffer; else the byte of slot `TAIL`, and `TAIL` advances. -/
def execFifoPop (s : State) : Host.Outcome State Fault Refusal :=
  if s.isEmpty then .next (s.raiseFault .q .popEmpty)
  else
    match s.readSlot s.tail.toNat with
    | .error f => .fault f
    | .ok b => .next (s.takeByte.returned .q (zext32 b))

end Sys2Proof.Machine
end

