-- ==== Sys2Proof/Machine/Framer.lean ====
section
/-!
DEFINITION. The packet framer (41_framer.md): its transition on one byte (R120 to R125), the micro-step, and
the meanings of `FRAMER_STEP` (R126) and `FRAMER_POLL` (R127).
-/
namespace Sys2Proof.Machine

/-- What `FramerConsume` returns (R120). -/
inductive ConsumeResult where
  | consumed
  | frame
  deriving DecidableEq, Repr

/-- The outcome of a micro-step (R79, R126). -/
inductive StepOutcome where
  | empty
  | consumed
  | frame
  deriving DecidableEq, Repr

/-- `SeekHeader(b)` (R121). A byte that is no header byte is not stored (D13). -/
def State.seekHeader (s : State) (b : Byte) : State :=
  if s.pos = 0#5 then
    if b = Config.hdr0 then (s.storeAcc 0 b).setPos 1#5 else s.setPos 0#5
  else if b = Config.hdr1 then
    ((s.storeAcc 1 b).setPos 2#5).setFstate .accumulating
  else if b = Config.hdr0 then (s.storeAcc 0 b).setPos 1#5
  else s.setPos 0#5

/-- `EmbeddedHeader(A)` (R123): a header pair starts at some index from `SCAN_FIRST` to `SCAN_LAST`. -/
def embeddedHeader (a : Nat → Byte) : Bool :=
  (List.range' Config.scanFirst (Config.scanLast + 1 - Config.scanFirst)).any
    fun i => a i == Config.hdr0 && a (i + 1) == Config.hdr1

/-- `Emit()` (R124): all 32 bytes of `ACCBUF` go to `FRAME` at once. -/
def State.emit (s : State) : State :=
  { s with
    frame := Memory.ofBytes 0 ((List.range Config.frameLen).map s.accByte)
    frameValid := true
    fstate := .seekingHeader
    pos := 0#5 }

/-- `Reject()` (R125): back to the search at position 0, with no diagnostic and no re-scan. -/
def State.reject (s : State) : State :=
  (s.setFstate .seekingHeader).setPos 0#5

/-- `Accumulate(b)` (R122). The position 32 is never stored: it is compared on natural numbers (R29). -/
def State.accumulate (s : State) (b : Byte) : State × ConsumeResult :=
  let stored := s.storeAcc s.pos.toNat b
  if s.pos.toNat + 1 < Config.frameLen then (stored.setPos (s.pos + 1#5), .consumed)
  else if embeddedHeader stored.accByte then (stored.reject, .consumed)
  else (stored.emit, .frame)

/-- `FramerConsume(b)` (R120). -/
def State.framerConsume (s : State) (b : Byte) : State × ConsumeResult :=
  match s.fstate with
  | .seekingHeader => (s.seekHeader b, .consumed)
  | .accumulating => s.accumulate b

/-- The outcome of a micro-step that consumed a byte (R126). -/
def ConsumeResult.outcome : ConsumeResult → StepOutcome
  | .consumed => .consumed
  | .frame => .frame

/-- One micro-step (R126): consume at most one byte from the FIFO and run the framer on it. -/
def State.microStep (s : State) : Except Fault (State × StepOutcome) :=
  if s.isEmpty then .ok (s, .empty)
  else
    match s.readSlot s.tail.toNat with
    | .error f => .error f
    | .ok b =>
      let r := s.takeByte.framerConsume b
      .ok (r.1, r.2.outcome)

/-- The result word of `FRAMER_STEP`: 0 `EMPTY`, 1 `CONSUMED`, 2 `FRAME` (R79). -/
def StepOutcome.code : StepOutcome → ResultWord
  | .empty => 0#32
  | .consumed => 1#32
  | .frame => 2#32

/-- `FRAMER_STEP` (R126). -/
def execFramerStep (s : State) : Host.Outcome State Fault Refusal :=
  match s.microStep with
  | .error f => .fault f
  | .ok (s', o) => .next (s'.returned .q o.code)

/-- The end of a poll: it returns its result, and no poll is in flight any more (R127). -/
def State.endPoll (s : State) (result : ResultWord) : State := s.setPoll false (some result)

/-- What a poll does after a micro-step (R127): an empty FIFO ends it with 0, a frame with 1, a byte consumed
(a rejected candidate too) lets it go on. -/
def State.afterMicroStep (s : State) : StepOutcome → State
  | .empty => s.endPoll 0#32
  | .consumed => s
  | .frame => s.endPoll 1#32

/-- One micro-step of the poll in flight (R127). -/
def State.pollStep (s : State) : Host.Outcome State Fault Refusal :=
  match s.microStep with
  | .error f => .fault f
  | .ok (s', o) => .next (s'.afterMicroStep o)

/-- A poll begins: it is in flight and has returned no result (R38, R127). -/
def State.beginPoll (s : State) : State := s.setPoll true none

/-- `FRAMER_POLL` (R127): the command is issued and the poll takes its first micro-step; the further ones are
steps of their own, between which the producer may step (R38, R167; log 3). -/
def execFramerPoll (s : State) : Host.Outcome State Fault Refusal :=
  s.beginPoll.pollStep

end Sys2Proof.Machine
end

