-- ==== Sys2Proof/Machine/Readout.lean ====
section
/-!
DEFINITION. The meanings of the frame read-out and status family: `FRAME_READ`, `CHAN_DECODE`, `STATUS_READ`
(42_frame_readout.md R140 to R142). None of them changes the state of the block.
-/
namespace Sys2Proof.Machine

/-- `FRAME_READ i` (R140). Before the first emit since reset the byte is unspecified (log 5). -/
def execFrameRead (i : BitVec 5) (s : State) : Host.Outcome State Fault Refusal :=
  .next (s.returned .q (zext32 (s.indexOperand i)))

/-- `CHAN_DECODE ch` (R141): an out-of-range channel gives the sentinel and is no fault. -/
def execChanDecode (ch : BitVec 8) (s : State) : Host.Outcome State Fault Refusal :=
  .next (s.returned .q (s.channelOperand ch))

/-- `STATUS_READ` (R142). -/
def execStatusRead (s : State) : Host.Outcome State Fault Refusal :=
  .next (s.returned .q s.statusWord)

end Sys2Proof.Machine
end

