-- ==== Sys2Proof/Machine/Dispatch.lean ====
section
/-! DEFINITION. One arm for each operation: the meaning of every constructor of `Instr`. -/
namespace Sys2Proof.Machine

def exec (i : Instr) (s : State) : Host.Outcome State Fault Refusal :=
  match i with
  | .rxPush b => Sys2Proof.Machine.execRxPush b s
  | .fifoAvail => Sys2Proof.Machine.execFifoAvail s
  | .fifoPop => Sys2Proof.Machine.execFifoPop s
  | .framerStep => Sys2Proof.Machine.execFramerStep s
  | .framerPoll => Sys2Proof.Machine.execFramerPoll s
  | .frameRead idx => Sys2Proof.Machine.execFrameRead idx s
  | .chanDecode ch => Sys2Proof.Machine.execChanDecode ch s
  | .statusRead => Sys2Proof.Machine.execStatusRead s

end Sys2Proof.Machine
end

