-- ==== Sys2Proof/Machine/Agents.lean ====
section
/-!
DEFINITION. The agents' steps (10_state.md R20, 20_memory.md R59): issuing a command word on a port, the poll in
flight, the host's reset, and which of them the next step of the interleaving is.
-/
namespace Sys2Proof.Machine

/-- A command `(port, w)` is decoded and executed; a word that the checks of R78 turn away faults (R162). -/
def State.issue (s : State) (port : Port) (w : CommandWord) : Host.Outcome State Fault Refusal :=
  match decode port w with
  | .error code => .next (s.raiseFault port code)
  | .ok i => exec i s

/-- The consumer's turn: the poll in flight takes its next micro-step (R127); with no poll in flight the
turn changes nothing (log 3). -/
def State.pollTurn (s : State) : Host.Outcome State Fault Refusal :=
  if s.pollInFlight then s.pollStep else .next s

/-- The port is busy: a `FRAMER_POLL` has begun on it and not returned (R20, R38). -/
def State.busy (s : State) : Port → Bool
  | .p => false
  | .q => s.pollInFlight

/-- The next atomic step of the interleaving (R59). With no action to come a poll in flight goes on, and
otherwise the block waits (R181). A command on a busy port waits until the poll has returned (R20), and the
poll takes its next micro-step meanwhile (log 2, log 3). -/
def State.agentStep (s : State) : Host.Outcome State Fault Refusal :=
  match s.inputs with
  | [] => s.pollTurn
  | .command port w :: rest =>
    if s.busy port then s.pollStep else { s with inputs := rest }.issue port w
  | .pollTurn :: rest => { s with inputs := rest }.pollTurn
  | .reset :: rest => .next { s with inputs := rest }.hostReset

/-- The port a placed word is issued on: P for `OP = 0x1`, else Q (R73). -/
def portOfWord (w : CommandWord) : Port := if opField w = 0x1#4 then .p else .q

/-- `s` with a command placed as the very next action; a poll in flight on its port has ended, as a port
issues a command only after the one before has returned (R20; log 10). -/
def State.placeCommand (s : State) (port : Port) (w : CommandWord) : State :=
  { s with
    inputs := .command port w :: s.inputs
    pollInFlight := if port = .q then false else s.pollInFlight }

/-- The 16-bit word of a table instruction: `w` with every bit at or above `nbits` zero. -/
def tableWord (nbits w : Nat) : CommandWord := BitVec.ofNat 16 (w % 2 ^ nbits)

end Sys2Proof.Machine
end

