-- ==== Sys2Proof/Machine/Step.lean ====
section
/-! DEFINITION. One step of the machine, and the host's placing of an instruction where the next step takes it. -/
namespace Sys2Proof.Machine

/-- One atomic step of the interleaving of the agents (R57, R59). -/
def step (s : State) : Host.Outcome State Fault Refusal := s.agentStep

/-- `s` with the table instruction `w` issued by its agent as the next action (log 10). The block has no
memory it fetches from (R34, R62): commands arrive on its ports. -/
def State.withFetchWord (s : State) (nbits w : Nat) : State :=
  s.placeCommand (portOfWord (tableWord nbits w)) (tableWord nbits w)

end Sys2Proof.Machine
end

