-- ==== Sys2Proof/WellFormed.lean ====
section
/-!
DEFINITION. Assembly lines and their well-formedness (30_encoding.md R71, R81, R82). A line's operands
are plain numbers, as they are written; the checks say which lines stand for words.
-/
namespace Sys2Proof

/-- The mnemonics of a line: the eight of R73 and the pseudo-instruction `RX_FEED` (R82). -/
inductive Mnemonic where
  | rxPush
  | fifoAvail
  | fifoPop
  | framerStep
  | framerPoll
  | frameRead
  | chanDecode
  | statusRead
  | rxFeed
  deriving DecidableEq, Repr

/-- One line `<port>: <MNEMONIC> [<operand>]` (R81); `RX_FEED` takes a list of operands (R82). -/
structure AsmLine where
  port : Port
  mnemonic : Mnemonic
  operands : List Nat
  deriving DecidableEq, Repr

/-- The operand forms of R71, and the byte list of `RX_FEED` (R82). -/
inductive OperandForm where
  | none
  | d8
  | idx5
  | ch8
  | bytes
  deriving DecidableEq, Repr

/-- The operand form of each mnemonic (R71, R82). -/
def Mnemonic.form : Mnemonic → OperandForm
  | .rxPush => .d8
  | .fifoAvail => .none
  | .fifoPop => .none
  | .framerStep => .none
  | .framerPoll => .none
  | .frameRead => .idx5
  | .chanDecode => .ch8
  | .statusRead => .none
  | .rxFeed => .bytes

/-- The operands are present exactly as the form says, each in its form's range; one out of range is an
assembly error (R81). `RX_FEED` has at least one operand (R82: `b0 .. bn`, `n >= 0`). -/
def OperandForm.admits : OperandForm → List Nat → Bool
  | .none, ops => ops.isEmpty
  | .d8, [b] => b ≤ 255
  | .d8, _ => false
  | .idx5, [i] => i ≤ 31
  | .idx5, _ => false
  | .ch8, [ch] => ch ≤ 255
  | .ch8, _ => false
  | .bytes, ops => !ops.isEmpty && ops.all (· ≤ 255)

/-- A line is well formed when its operands fit its form and, for `RX_FEED`, its port is P (R82). A real
mnemonic may stand on either port: a legal word on the wrong port is a fault when it is issued (R77), not
an assembly error. -/
def AsmLine.wellFormed (l : AsmLine) : Bool :=
  l.mnemonic.form.admits l.operands && (l.mnemonic != .rxFeed || l.port == .p)

end Sys2Proof
end

