-- ==== Sys2Proof/Machine/Assembler.lean ====
section
/-!
DEFINITION. The assembler notation (30_encoding.md R81) and the pseudo-instruction `RX_FEED` (R82). Notation only:
no step of the machine reads it.
-/
namespace Sys2Proof.Machine

/-- The operation of one operand list, for the mnemonics that stand for a word of their own (R71, R73). -/
def instrOf : Mnemonic → List Nat → Option Instr
  | .rxPush, [b] => some (.rxPush (BitVec.ofNat 8 b))
  | .fifoAvail, [] => some .fifoAvail
  | .fifoPop, [] => some .fifoPop
  | .framerStep, [] => some .framerStep
  | .framerPoll, [] => some .framerPoll
  | .frameRead, [i] => some (.frameRead (BitVec.ofNat 5 i))
  | .chanDecode, [ch] => some (.chanDecode (BitVec.ofNat 8 ch))
  | .statusRead, [] => some .statusRead
  | _, _ => none

/-- The commands a line stands for, in order: one word for a mnemonic of R73, one `RX_PUSH` for each byte of an
`RX_FEED` (R82); an ill-formed line is an assembly error (R81). -/
def assemble (l : AsmLine) : Option (List AgentAction) :=
  if l.wellFormed then
    match l.mnemonic with
    | .rxFeed => some (l.operands.map fun b => .command .p (encode (.rxPush (BitVec.ofNat 8 b))))
    | m => (instrOf m l.operands).map fun i => [.command l.port (encode i)]
  else none

/-- The pieces of a line's text (R81). -/
inductive Token where
  | word (letters : List Char)
  | colon
  | comma
  deriving DecidableEq, Repr

/-- Ends the word collected so far (kept in reverse). -/
def flushWord : List Char → List Token → List Token
  | [], ts => ts
  | c :: cs, ts => .word (c :: cs).reverse :: ts

/-- Cuts a line into tokens; a comment starts with a semicolon (R81). -/
def tokens : List Char → List Char → List Token
  | acc, [] => flushWord acc []
  | acc, c :: cs =>
    if c = ';' then flushWord acc []
    else if c = ' ' ∨ c = '\t' then flushWord acc (tokens [] cs)
    else if c = ':' then flushWord acc (.colon :: tokens [] cs)
    else if c = ',' then flushWord acc (.comma :: tokens [] cs)
    else tokens (c :: acc) cs

/-- The value of a digit in base 16; both letter cases (log 11). -/
def digitValue (c : Char) : Option Nat :=
  if '0' ≤ c ∧ c ≤ '9' then some (c.toNat - 48)
  else if 'A' ≤ c ∧ c ≤ 'F' then some (c.toNat - 55)
  else if 'a' ≤ c ∧ c ≤ 'f' then some (c.toNat - 87)
  else none

/-- The digits of a number in `base`, continuing from `acc`. -/
def digits (base : Nat) : Nat → List Char → Option Nat
  | acc, [] => some acc
  | acc, c :: cs =>
    match digitValue c with
    | some d => if d < base then digits base (acc * base + d) cs else none
    | none => none

/-- A decimal number or a `0x` hexadecimal number (R81). -/
def number : List Char → Option Nat
  | '0' :: 'x' :: c :: cs => digits 16 0 (c :: cs)
  | c :: cs => digits 10 0 (c :: cs)
  | [] => none

/-- The spelling of each mnemonic (R73, R82). -/
def mnemonicSpellings : List (List Char × Mnemonic) :=
  [ ("RX_PUSH".toList, .rxPush), ("FIFO_AVAIL".toList, .fifoAvail), ("FIFO_POP".toList, .fifoPop)
  , ("FRAMER_STEP".toList, .framerStep), ("FRAMER_POLL".toList, .framerPoll)
  , ("FRAME_READ".toList, .frameRead), ("CHAN_DECODE".toList, .chanDecode)
  , ("STATUS_READ".toList, .statusRead), ("RX_FEED".toList, .rxFeed) ]

/-- The port a line names (R81). -/
def portNamed : List Char → Option Port
  | ['P'] => some .p
  | ['Q'] => some .q
  | _ => none

/-- Operands after the first one, each behind a comma (R82). -/
def moreOperands : List Token → Option (List Nat)
  | [] => some []
  | .comma :: .word w :: ts =>
    match number w, moreOperands ts with
    | some n, some ns => some (n :: ns)
    | _, _ => none
  | _ => none

/-- The operands of a line (R81, R82). -/
def operandsOf : List Token → Option (List Nat)
  | [] => some []
  | .word w :: ts =>
    match number w, moreOperands ts with
    | some n, some ns => some (n :: ns)
    | _, _ => none
  | _ => none

/-- What a line of text is: blank (or only a comment), a command line, or no line of the notation. -/
inductive LineText where
  | blank
  | line (l : AsmLine)
  | error
  deriving DecidableEq, Repr

/-- Reads `<port>: <MNEMONIC> [<operand>]` (R81). -/
def parseLine (text : List Char) : LineText :=
  match tokens [] text with
  | [] => .blank
  | .word p :: .colon :: .word m :: rest =>
    match portNamed p, mnemonicSpellings.lookup m, operandsOf rest with
    | some port, some mnemonic, some operands => .line ⟨port, mnemonic, operands⟩
    | _, _, _ => .error
  | _ => .error

/-- The commands of a line of text; none for an assembly error (R81). -/
def assembleText (text : List Char) : Option (List AgentAction) :=
  match parseLine text with
  | .blank => some []
  | .line l => assemble l
  | .error => none

end Sys2Proof.Machine
end

