-- ==== Sys2Proof/Machine/Run.lean ====
section
/-!
DEFINITION. Runs of the machine under a draw of its agents (40_receiver_fifo.md R104; 20_memory.md R59). What the agents
will do is no state of the block (10_state.md R22), so a draw stands outside `State`: it is a sequence without end, and
each step of a run lets the next part of it arrive.
-/
namespace Sys2Proof.Machine

/-- What the agents do in the course of a run: before step `n` the actions `draw n` arrive, none, one or several. The
sequence has no end; a finite one has no actions from some point on. -/
abbrev Draw := Nat → List AgentAction

/-- Actions arrive behind those that have arrived before (R59: each agent's steps keep their order). -/
def State.arrive (s : State) (actions : List AgentAction) : State :=
  { s with inputs := s.inputs ++ actions }

/-- What the producer does with a byte the serial link delivers: exactly one `RX_PUSH`, and nothing else (R103). -/
def pushOf (b : Byte) : AgentAction := .command .p (encode (.rxPush b))

/-- The producer's actions for a finite piece of the byte stream, in delivery order (R103). -/
def linkDelivers (bytes : List Byte) : List AgentAction := bytes.map pushOf

/-- The producer's draw (R104): any finite or infinite sequence of bytes, delivered at any points of the interleaving;
`bytes n` is the byte delivered before step `n`, if one is. -/
def linkDraw (bytes : Nat → Option Byte) : Draw := fun n => linkDelivers (bytes n).toList

/-- Two draws together: at each point the actions of both, those of the first one first. -/
def Draw.beside (d e : Draw) : Draw := fun n => d n ++ e n

/-- The state after one step, if the machine does not stop. -/
def State.stepped (s : State) : Option State :=
  match step s with
  | .next t => some t
  | .fault _ => none
  | .refused _ => none

/-- The state after `n` steps under a draw; none if a step of the run stops. -/
def State.run (draw : Draw) : Nat → State → Option State
  | 0, s => some s
  | n + 1, s => (State.run draw n s).bind fun t => (t.arrive (draw n)).stepped

end Sys2Proof.Machine
end

