-- ==== Sys2Proof/Safety.lean ====
section
/-!
DEFINITION. The terms claims use: the bytes the ring buffer holds, the invariant of the block, what a candidate
frame is, when the block has gone wrong, and several steps in a row.
-/
namespace Sys2Proof.Machine

/-- The bytes held by the ring buffer, oldest first: `FIFO[(TAIL + k) mod CAP]` for `k < COUNT` (R27 (c)). -/
def State.contents (s : State) : List Byte :=
  (List.range s.count).map fun k => s.fifoByte ((s.tail.toNat + k) % s.cap)

/-- The FIFO is not empty and the next byte to consume, in an existing slot `TAIL`, is `b`. -/
def State.HasByte (s : State) (b : Byte) : Prop :=
  s.head ≠ s.tail ∧ s.tail.toNat < s.cap ∧ s.fifoByte s.tail.toNat = b

/-- A header pair starts inside the scan range of 32 bytes read by `a` (R123), on the spec's own terms. -/
def HasEmbeddedHeader (a : Nat → Byte) : Prop :=
  ∃ i, 2 ≤ i ∧ i ≤ 30 ∧ a i = 0x20#8 ∧ a (i + 1) = 0x40#8

/-- The candidate frame once byte `b` is stored at position 31 (R122). -/
def State.candidate (s : State) (b : Byte) (i : Nat) : Byte := if i = 31 then b else s.accByte i

/-- The legal framer positions between steps (R29): 0 or 1 while seeking, 2 to 31 while accumulating. -/
def State.PosLegal (s : State) : Prop :=
  (s.fstate = .seekingHeader → s.pos.toNat ≤ 1) ∧
  (s.fstate = .accumulating → 2 ≤ s.pos.toNat ∧ s.pos.toNat ≤ 31)

/-- The invariant of the block between atomic steps: the indices name slots (R27), the byte arrays are in
canonical form and every cell a rule reads has been written (R25, R30), the framer's position is legal (R29)
and its working buffer starts with a header (R121), a frame held is a valid frame (R130), the fault code is one
that is raised (R161), and a poll in flight has returned no result (R38). -/
structure State.Inv (s : State) : Prop where
  head_lt : s.head.toNat < s.cap
  tail_lt : s.tail.toNat < s.cap
  fifo_wf : s.fifo.wf s.cap = true
  accbuf_wf : s.accbuf.wf Config.frameLen = true
  frame_wf : s.frame.wf Config.frameLen = true
  fifo_written : ∀ k < s.count, (s.fifo.read? ((s.tail.toNat + k) % s.cap)).isSome = true
  pos_legal : s.PosLegal
  acc_written : ∀ i < s.pos.toNat, (s.accbuf.read? i).isSome = true
  acc_hdr0 : 1 ≤ s.pos.toNat → s.accByte 0 = 0x20#8
  acc_hdr1 : 2 ≤ s.pos.toNat → s.accByte 1 = 0x40#8
  frame_unwritten : s.frameValid = false → s.frame = []
  frame_written : s.frameValid = true → ∀ i < 32, (s.frame.read? i).isSome = true
  frame_hdr : s.frameValid = true → s.frameByte 0 = 0x20#8 ∧ s.frameByte 1 = 0x40#8
  frame_scan : s.frameValid = true → ¬ HasEmbeddedHeader s.frameByte
  fault_known : s.fault.toNat ≤ 3
  poll_no_result : s.pollInFlight = true → s.qResult = none

/-- The block has gone wrong: a fault has been recorded since the last reset (R163, D6). A claim about a run is one
about runs that end without it, or says of the run that it records no fault. -/
def State.GoneWrong (s : State) : Prop := s.fault ≠ 0#4

/-- A run of `n` steps under a draw ends in `t`, and it has not gone wrong: R163's premise, `FAULT == 0` at the end. -/
def State.EndsWell (draw : Draw) (n : Nat) (s t : State) : Prop := s.run draw n = some t ∧ ¬ t.GoneWrong

/-- `n` steps in a row with no action arriving; none if one of them stops. -/
def State.steps : Nat → State → Option State
  | 0, s => some s
  | n + 1, s => s.stepped.bind (State.steps n)

/-- Pushes the bytes one after another, as the producer does with nothing between, and lists the results. -/
def State.pushAll : List Byte → State → Option (State × List (Option ResultWord))
  | [], s => some (s, [])
  | b :: bs, s =>
    match exec (.rxPush b) s with
    | .next t => (State.pushAll bs t).map fun r => (r.1, t.pResult :: r.2)
    | .fault _ => none
    | .refused _ => none

/-- Pops `n` bytes one after another, with nothing between, and lists the results. -/
def State.popAll : Nat → State → Option (State × List (Option ResultWord))
  | 0, s => some (s, [])
  | n + 1, s =>
    match exec .fifoPop s with
    | .next t => (State.popAll n t).map fun r => (r.1, t.qResult :: r.2)
    | .fault _ => none
    | .refused _ => none

/-- Takes `n` framer steps one after another and lists, for each, its result and on an emit the frame. -/
def State.framerAll : Nat → State → Option (State × List (Option ResultWord × List Byte))
  | 0, s => some (s, [])
  | n + 1, s =>
    match exec .framerStep s with
    | .next t => (State.framerAll n t).map fun r =>
        (r.1, (t.qResult, if t.qResult = some 2#32 then (List.range 32).map t.frameByte else []) :: r.2)
    | .fault _ => none
    | .refused _ => none

end Sys2Proof.Machine
end

