-- ==== Sys2Proof/Certificates/Slice0/Obligations.lean ====
section
/-!
DEFINITION. The statements for the provers. A frame is stated by an equality of whole states: in
`t = { s with head := t.head, … }` every field that is not named is the one of `s`. The byte arrays are spoken of
through the reads of one byte, `fifoByte`, `accByte` and `frameByte`.
-/
open Sys2Proof Sys2Proof.Machine

/-! ### Encoding (30_encoding.md) -/

/-- R70, R71, R73: every operation, with every operand its encoding admits, decodes from its own word. -/
def Obligations.DecodeOfEncode : Prop :=
  ∀ i : Instr, decodeWord (encode i) = .ok i ∧ decode i.port (encode i) = .ok i

/-- R73: a word has one meaning; the operation it decodes to is encoded by that very word. -/
def Obligations.EncodeOfDecode : Prop :=
  ∀ (w : CommandWord) (i : Instr), decodeWord w = .ok i → encode i = w

/-- R73: a word selects an operation exactly when `(word & mask) == match` for the row of that operation, and at most
one row matches any word. -/
def Obligations.WordSelectsAtMostOneRow : Prop :=
  ∀ w : CommandWord,
    (∀ r ∈ opcodeTable, ∀ r' ∈ opcodeTable, r.selects w → r'.selects w → r = r') ∧
    (∀ i : Instr, decodeWord w = .ok i → i.row ∈ opcodeTable ∧ i.row.selects w ∧ i.row.port = i.port) ∧
    (∀ r ∈ opcodeTable, r.selects w → ∃ i : Instr, decodeWord w = .ok i ∧ i.row = r)

/-- R75: the words that match no row are exactly those with a reserved `OP`, a nonzero `RSV`, an operand on a
`none`-form operation, or a `FRAME_READ` index above 31; each faults with `ILLEGAL_OP` on either port that is not
busy. -/
def Obligations.IllegalWordsFault : Prop :=
  ∀ w : CommandWord,
    ((∀ r ∈ opcodeTable, ¬ r.selects w) ↔
      (w.toNat / 4096 = 0 ∨ 9 ≤ w.toNat / 4096 ∨ w.toNat / 256 % 16 ≠ 0 ∨
        (w.toNat / 4096 ∈ [2, 3, 4, 5, 8] ∧ w.toNat % 256 ≠ 0) ∨
        (w.toNat / 4096 = 6 ∧ w.toNat % 256 / 32 ≠ 0))) ∧
    ((∀ r ∈ opcodeTable, ¬ r.selects w) → ∀ (s : State) (port : Port) (rest : List AgentAction),
      s.inputs = .command port w :: rest → (port = .q → s.pollInFlight = false) →
      step s = .next { s with
        inputs := rest
        fault := if s.fault = 0#4 then 1#4 else s.fault
        pResult := if port = .p then some 0#32 else s.pResult
        qResult := if port = .q then some 0#32 else s.qResult })

/-- R77: a word that selects an operation but arrives on the wrong port faults with `WRONG_PORT` and has no other
effect. -/
def Obligations.WrongPortFaults : Prop :=
  ∀ (s : State) (port : Port) (w : CommandWord) (rest : List AgentAction), ∀ r ∈ opcodeTable,
    r.selects w → r.port ≠ port →
    s.inputs = .command port w :: rest → (port = .q → s.pollInFlight = false) →
    step s = .next { s with
      inputs := rest
      fault := if s.fault = 0#4 then 2#4 else s.fault
      pResult := if port = .p then some 0#32 else s.pResult
      qResult := if port = .q then some 0#32 else s.qResult }

/-- R78: the checks in their order, the first that fails deciding the fault; a word that passes them all is executed. -/
def Obligations.DecodeOrder : Prop :=
  ∀ (s : State) (port : Port) (w : CommandWord),
    let op := w.toNat / 4096
    let rsv := w.toNat / 256 % 16
    let imm := w.toNat % 256
    if op = 0 ∨ 9 ≤ op then s.issue port w = .next (s.raiseFault port .illegalOp)
    else if rsv ≠ 0 then s.issue port w = .next (s.raiseFault port .illegalOp)
    else if op ∈ [2, 3, 4, 5, 8] ∧ imm ≠ 0 then s.issue port w = .next (s.raiseFault port .illegalOp)
    else if op = 6 ∧ imm / 32 ≠ 0 then s.issue port w = .next (s.raiseFault port .illegalOp)
    else if op = 1 ∧ port ≠ .p then s.issue port w = .next (s.raiseFault port .wrongPort)
    else if op ≠ 1 ∧ port ≠ .q then s.issue port w = .next (s.raiseFault port .wrongPort)
    else ∃ i, s.issue port w = exec i s ∧
      i = (if op = 1 then .rxPush (BitVec.ofNat 8 imm)
        else if op = 2 then .fifoAvail
        else if op = 3 then .fifoPop
        else if op = 4 then .framerStep
        else if op = 5 then .framerPoll
        else if op = 6 then .frameRead (BitVec.ofNat 5 imm)
        else if op = 7 then .chanDecode (BitVec.ofNat 8 imm)
        else .statusRead)

/-- Sample words written out from the bit patterns of R73 decode to their operations. -/
def Obligations.SampleWordsDecode : Prop :=
  decodeWord 0b0001000010100101#16 = .ok (.rxPush 0xA5#8) ∧
  decodeWord 0b0010000000000000#16 = .ok .fifoAvail ∧
  decodeWord 0b0011000000000000#16 = .ok .fifoPop ∧
  decodeWord 0b0100000000000000#16 = .ok .framerStep ∧
  decodeWord 0b0101000000000000#16 = .ok .framerPoll ∧
  decodeWord 0b0110000000011110#16 = .ok (.frameRead 30#5) ∧
  decodeWord 0b0111000000001110#16 = .ok (.chanDecode 14#8) ∧
  decodeWord 0b1000000000000000#16 = .ok .statusRead

/-! ### The step and the agents (10_state.md R20, R38; 20_memory.md R59) -/

/-- A step runs the decoded command: when the next action is a command word that its port's checks let through, on a
port that is not busy, the step is the operation, with the action taken off the list. That a step takes the next
action off a list is the model's choice (log 2). -/
def Obligations.StepRunsDecodedCommand : Prop :=
  ∀ (s : State) (port : Port) (w : CommandWord) (rest : List AgentAction) (i : Instr),
    s.inputs = .command port w :: rest → (port = .q → s.pollInFlight = false) →
    decode port w = .ok i →
    step s = exec i { s with inputs := rest }

/-- A placed table instruction runs in the very next step; how a word is placed is the model's choice (log 10). -/
def Obligations.PlacedWordRuns : Prop :=
  ∀ (s : State) (w : Nat) (i : Instr), decodeTableWord 16 w = some i →
    step (s.withFetchWord 16 w) =
      exec i { s with pollInFlight := if i.port = .q then false else s.pollInFlight }

/-- The steps of a poll in flight (R127): with no action to come, on the consumer's turn, and while a command waits on
the busy Q port, the step is one micro-step with the state changes of `FRAMER_STEP`; it ends the poll with 0 on an
empty FIFO and with 1 on a frame, and otherwise the poll stays in flight with no result. Which step is a micro-step
of the poll is the model's choice (log 2, log 3). -/
def Obligations.PollGoesOnByMicroSteps : Prop :=
  ∀ (s s0 u : State), s.pollInFlight = true →
    (s.inputs = [] ∧ s0 = s ∨
      (∃ w rest, s.inputs = .command .q w :: rest) ∧ s0 = s ∨
      (∃ rest, s.inputs = .pollTurn :: rest ∧ s0 = { s with inputs := rest })) →
    exec .framerStep s0 = .next u →
    (u.qResult = some 0#32 ∧
      step s = .next { u with pollInFlight := false, qResult := some 0#32 }) ∨
    (u.qResult = some 1#32 ∧ step s = .next { u with qResult := s.qResult }) ∨
    (u.qResult = some 2#32 ∧
      step s = .next { u with pollInFlight := false, qResult := some 1#32 })

/-! ### Reset (70_reset_and_hazards.md R180, R181) -/

/-- R181: the entry state a host reset leaves, from any state: FIFO empty (`FIFO_AVAIL` returns 0), framer seeking at
position 0, no frame held, no fault, status word 0, no command in progress; and the block then waits for commands
(with no action in the list its step changes nothing, the form log 2 gives to waiting). -/
def Obligations.HostResetEntryState : Prop :=
  ∀ (s : State) (rest : List AgentAction), s.inputs = .reset :: rest →
    ∃ t, step s = .next t ∧ t.inputs = rest ∧ t.isEmpty = true ∧
      exec .fifoAvail t = .next { t with qResult := some 0#32 } ∧
      t.fstate = .seekingHeader ∧ t.pos = 0#5 ∧ t.frameValid = false ∧ t.fault = 0#4 ∧
      exec .statusRead t = .next { t with qResult := some 0x00000000#32 } ∧
      t.pollInFlight = false ∧ (rest = [] → step t = .next t)

/-- What a host reset sets, in one step (R180). The byte arrays hold any value: that each byte then reads as the free
byte of the new epoch is the model's choice (log 5). A poll in flight ends with no result; that the model's result
words stay is its choice too (log 4). -/
def Obligations.HostResetSetsState : Prop :=
  ∀ (s : State) (rest : List AgentAction), s.inputs = .reset :: rest →
    ∃ t, step s = .next t ∧ t.build = s.build ∧ t.head = 0#8 ∧ t.tail = 0#8 ∧
      t.fstate = .seekingHeader ∧ t.pos = 0#5 ∧ t.frameValid = false ∧ t.fault = 0#4 ∧
      t.pollInFlight = false ∧ t.pResult = s.pResult ∧ t.qResult = s.qResult ∧ t.inputs = rest ∧
      ∀ i, t.fifoByte i = Config.unspecifiedByte .fifo (s.epoch + 1) i ∧
        t.accByte i = Config.unspecifiedByte .accbuf (s.epoch + 1) i ∧
        t.frameByte i = Config.unspecifiedByte .frame (s.epoch + 1) i

/-- The state after reset meets the invariant, and its status word is 0 (R36, R181). -/
def Obligations.ResetMeetsInvariant : Prop :=
  State.reset.Inv ∧ State.reset.statusWord = 0x00000000#32 ∧ State.reset.contents = []

/-! ### Ring buffer (40_receiver_fifo.md) -/

/-- R100: a push with a free slot stores the byte in slot `HEAD`, advances `HEAD` modulo `CAP`, returns 1, and changes
nothing else. -/
def Obligations.RxPushAccepted : Prop :=
  ∀ (s : State) (b : Byte), s.head.toNat < s.cap → (s.head.toNat + 1) % s.cap ≠ s.tail.toNat →
    ∃ t, exec (.rxPush b) s = .next t ∧
      t = { s with fifo := t.fifo, head := t.head, pResult := some 1#32 } ∧
      t.head.toNat = (s.head.toNat + 1) % s.cap ∧
      t.fifoByte s.head.toNat = b ∧ ∀ j, j ≠ s.head.toNat → t.fifoByte j = s.fifoByte j

/-- R100: a push on a full buffer returns 0 and discards the byte; no state of the block changes. -/
def Obligations.RxPushDroppedWhenFull : Prop :=
  ∀ (s : State) (b : Byte), (s.head.toNat + 1) % s.cap = s.tail.toNat →
    exec (.rxPush b) s = .next { s with pResult := some 0#32 }

/-- R105: the producer never waits: from any state with `HEAD` in its legal range a step that is an `RX_PUSH` on the P
port completes, with a poll in flight too, with result 1 or 0. -/
def Obligations.ProducerNeverWaits : Prop :=
  ∀ (s : State) (b : Byte) (rest : List AgentAction), s.head.toNat < s.cap →
    s.inputs = .command .p (encode (.rxPush b)) :: rest →
    ∃ t, step s = .next t ∧ t.inputs = rest ∧ (t.pResult = some 1#32 ∨ t.pResult = some 0#32) ∧
      t.pollInFlight = s.pollInFlight ∧ t.qResult = s.qResult

/-- R101: the result tells whether a byte is available; nothing of the block changes. -/
def Obligations.FifoAvailResult : Prop :=
  ∀ s : State, exec .fifoAvail s =
    .next { s with qResult := some (if s.head = s.tail then 0#32 else 1#32) }

/-- R102: a pop of a non-empty buffer returns the byte of slot `TAIL`, widened with zeros, advances `TAIL` modulo `CAP`,
and changes nothing else. -/
def Obligations.FifoPopReturnsOldest : Prop :=
  ∀ s : State, s.head ≠ s.tail → s.tail.toNat < s.cap →
    ∃ t, exec .fifoPop s = .next t ∧
      t = { s with tail := t.tail, qResult := some ((s.fifoByte s.tail.toNat).setWidth 32) } ∧
      t.tail.toNat = (s.tail.toNat + 1) % s.cap

/-- R102, R162: a pop of an empty buffer is `POP_EMPTY`: the first fault is kept, the result is 0, nothing else
changes. -/
def Obligations.FifoPopEmptyFaults : Prop :=
  ∀ s : State, s.head = s.tail →
    exec .fifoPop s = .next { s with
      fault := if s.fault = 0#4 then 3#4 else s.fault
      qResult := some 0#32 }

/-- R107 (c): `FIFO_AVAIL` returns 1 exactly when a `FIFO_POP` issued in the same place would not fault. -/
def Obligations.AvailExactlyWhenPopSucceeds : Prop :=
  ∀ s : State, s.Inv → s.fault = 0#4 →
    ∃ t u, exec .fifoAvail s = .next t ∧ exec .fifoPop s = .next u ∧
      (t.qResult = some 1#32 ↔ u.fault = 0#4)

/-- The ring buffer is a bounded queue for the producer (R27 (c), R60): an accepted push appends its byte to the bytes
held, a push with `CAP-1` bytes held leaves them as they are. -/
def Obligations.RxPushAppendsToQueue : Prop :=
  ∀ (s : State) (b : Byte), s.Inv →
    s.contents.length = s.count ∧ s.count ≤ s.cap - 1 ∧
    ∃ t, exec (.rxPush b) s = .next t ∧
      (s.count < s.cap - 1 → t.contents = s.contents ++ [b] ∧ t.pResult = some 1#32) ∧
      (s.count = s.cap - 1 → t.contents = s.contents ∧ t.pResult = some 0#32)

/-- The ring buffer is a queue for the consumer (R27 (c), R60): a pop returns and removes the oldest byte held, and a
framer step removes it too; both leave the rest in order. -/
def Obligations.ConsumerTakesOldest : Prop :=
  ∀ (s : State) (b : Byte) (bs : List Byte), s.Inv → s.contents = b :: bs →
    (∃ t, exec .fifoPop s = .next t ∧ t.contents = bs ∧ t.qResult = some (b.setWidth 32)) ∧
    (∃ t, exec .framerStep s = .next t ∧ t.contents = bs)

/-- R107 (a): when `m` bytes are held and at most `CAP-1-m` bytes are pushed with no consumption, all of them are accepted,
and the next pops return the bytes held before and then the pushed ones, in order. No step of it records a fault, so the
run ends gone wrong only if it began so (R163). -/
def Obligations.PushedBytesComeBackInOrder : Prop :=
  ∀ (s : State) (bs : List Byte), s.Inv → s.contents.length + bs.length ≤ s.cap - 1 →
    ∃ t, State.pushAll bs s = some (t, bs.map fun _ => some 1#32) ∧
      ∃ u, State.popAll (s.contents.length + bs.length) t =
        some (u, (s.contents ++ bs).map fun b => some (b.setWidth 32)) ∧ u.fault = s.fault

/-- R107 (b): from an empty buffer, of the pushes with no consumption the first `CAP-1` return 1 and the rest 0, and the
buffer holds exactly the first `CAP-1` bytes. A drop is no fault (R160): none is recorded. -/
def Obligations.ExcessPushesAreDropped : Prop :=
  ∀ (s : State) (bs : List Byte), s.Inv → s.contents = [] →
    ∃ t, State.pushAll bs s = some (t,
        (bs.take (s.cap - 1)).map (fun _ => some 1#32) ++ (bs.drop (s.cap - 1)).map fun _ => some 0#32) ∧
      t.contents = bs.take (s.cap - 1) ∧ t.fault = s.fault

/-- The producer's push and the consumer's pop commute while the buffer is neither empty nor full: both orders of the two
atomic steps (R168) end in the same state. -/
def Obligations.PushAndPopCommute : Prop :=
  ∀ (s : State) (b : Byte), s.Inv → s.contents ≠ [] → s.count < s.cap - 1 →
    ∃ t1 t2 u, exec (.rxPush b) s = .next t1 ∧ exec .fifoPop t1 = .next u ∧
      exec .fifoPop s = .next t2 ∧ exec (.rxPush b) t2 = .next u

/-! ### Packet framer (41_framer.md) -/

/-- R126: a framer step on an empty FIFO returns 0 and changes nothing of the block. -/
def Obligations.FramerStepOnEmpty : Prop :=
  ∀ s : State, s.head = s.tail → exec .framerStep s = .next { s with qResult := some 0#32 }

/-- R121: what a framer step does with its byte while seeking a header, at position 0 and at position 1. The byte is
consumed, the result is 1, and nothing but `TAIL`, `FSTATE`, `POS` and `ACCBUF` changes. -/
def Obligations.FramerSeeksHeader : Prop :=
  ∀ (s : State) (b : Byte), s.HasByte b → s.fstate = .seekingHeader → s.pos = 0#5 ∨ s.pos = 1#5 →
    ∃ t, exec .framerStep s = .next t ∧
      t = { s with tail := t.tail, fstate := t.fstate, pos := t.pos, accbuf := t.accbuf,
                   qResult := some 1#32 } ∧
      t.tail.toNat = (s.tail.toNat + 1) % s.cap ∧
      (if b = 0x20#8 then
        t.fstate = .seekingHeader ∧ t.pos = 1#5 ∧
          ∀ i, t.accByte i = if i = 0 then 0x20#8 else s.accByte i
      else if s.pos = 1#5 ∧ b = 0x40#8 then
        t.fstate = .accumulating ∧ t.pos = 2#5 ∧
          ∀ i, t.accByte i = if i = 1 then 0x40#8 else s.accByte i
      else t.fstate = .seekingHeader ∧ t.pos = 0#5 ∧ t.accbuf = s.accbuf)

/-- R122: below position 31 every byte, whatever its value, is stored at the position, which moves on by one. -/
def Obligations.FramerStoresBodyByte : Prop :=
  ∀ (s : State) (b : Byte), s.HasByte b → s.fstate = .accumulating → s.pos.toNat < 31 →
    ∃ t, exec .framerStep s = .next t ∧
      t = { s with tail := t.tail, pos := t.pos, accbuf := t.accbuf, qResult := some 1#32 } ∧
      t.tail.toNat = (s.tail.toNat + 1) % s.cap ∧ t.pos.toNat = s.pos.toNat + 1 ∧
      ∀ i, t.accByte i = if i = s.pos.toNat then b else s.accByte i

/-- R122, R124: the byte stored at position 31 completes the candidate; with no header pair in the scan range all its 32
bytes become the frame register at once, `FRAME_VALID` is set, the framer seeks at position 0, and the result is 2. -/
def Obligations.FramerEmitsFrame : Prop :=
  ∀ (s : State) (b : Byte), s.HasByte b → s.fstate = .accumulating → s.pos = 31#5 →
    (¬ ∃ i, 2 ≤ i ∧ i ≤ 30 ∧ s.candidate b i = 0x20#8 ∧ s.candidate b (i + 1) = 0x40#8) →
    ∃ t, exec .framerStep s = .next t ∧
      t = { s with tail := t.tail, fstate := .seekingHeader, pos := 0#5, accbuf := t.accbuf,
                   frame := t.frame, frameValid := true, qResult := some 2#32 } ∧
      t.tail.toNat = (s.tail.toNat + 1) % s.cap ∧
      (∀ i, t.accByte i = s.candidate b i) ∧ ∀ i < 32, t.frameByte i = s.candidate b i

/-- R122, R123, R125: with a header pair starting at an index from 2 to 30 the candidate is rejected: the framer seeks at
position 0, the result is 1, and `FRAME` and `FRAME_VALID` are not changed. -/
def Obligations.FramerRejectsEmbeddedHeader : Prop :=
  ∀ (s : State) (b : Byte), s.HasByte b → s.fstate = .accumulating → s.pos = 31#5 →
    (∃ i, 2 ≤ i ∧ i ≤ 30 ∧ s.candidate b i = 0x20#8 ∧ s.candidate b (i + 1) = 0x40#8) →
    ∃ t, exec .framerStep s = .next t ∧
      t = { s with tail := t.tail, fstate := .seekingHeader, pos := 0#5, accbuf := t.accbuf,
                   qResult := some 1#32 } ∧
      t.tail.toNat = (s.tail.toNat + 1) % s.cap ∧ ∀ i, t.accByte i = s.candidate b i

/-- R127: issuing a poll takes its first micro-step, with the state changes of `FRAMER_STEP`: on an empty FIFO it returns
0, on a frame 1, and otherwise it is in flight with no result. That issuing is the first micro-step, and that no
result shows meanwhile, is the model's choice (log 3, log 4). -/
def Obligations.FramerPollTakesFirstMicroStep : Prop :=
  ∀ s : State, s.head = s.tail ∨ s.tail.toNat < s.cap →
    ∃ u t, exec .framerStep s = .next u ∧ exec .framerPoll s = .next t ∧
      ((u.qResult = some 0#32 ∧ t = { u with pollInFlight := false, qResult := some 0#32 }) ∨
       (u.qResult = some 1#32 ∧ t = { u with pollInFlight := true, qResult := none }) ∨
       (u.qResult = some 2#32 ∧ t = { u with pollInFlight := false, qResult := some 1#32 }))

/-- A poll ends (R127): with no action of another agent to come, a poll in flight returns 0 or 1 within `COUNT + 1`
micro-steps, and the run records no fault (R164): it ends gone wrong only if it began so (R163). That the poll goes on
when the list of actions is empty is the model's choice (log 2). -/
def Obligations.PollTerminates : Prop :=
  ∀ s : State, s.Inv → s.pollInFlight = true → s.inputs = [] →
    ∃ n ≤ s.count + 1, ∃ t, State.steps n s = some t ∧ t.pollInFlight = false ∧
      (t.qResult = some 0#32 ∨ t.qResult = some 1#32) ∧ t.fault = s.fault

/-- A poll in flight returns only when it finds the FIFO empty, with 0, or emits a frame, with 1; over any other step but
a reset it stays in flight and has returned nothing (R127, R186). -/
def Obligations.PollReturnsOnlyOnEmptyOrFrame : Prop :=
  ∀ s t : State, s.pollInFlight = true → step s = .next t → (¬ ∃ rest, s.inputs = .reset :: rest) →
    (t.pollInFlight = true ∧ t.qResult = s.qResult) ∨
    (t.pollInFlight = false ∧ (∀ w rest, s.inputs ≠ .command .p w :: rest) ∧
      ((s.head = s.tail ∧ t.qResult = some 0#32) ∨
       (t.qResult = some 1#32 ∧ ∃ u, exec .framerStep s = .next u ∧ u.qResult = some 2#32)))

/-- A poll that is fed forever does not return (R186): when the link delivers, without end, one byte before every second
step, none of them a first header byte, a poll in flight that seeks at position 0 is in flight after every number of
steps, with no result. (The draw is a sequence without end outside the state, R104; log 2.) -/
def Obligations.PollFedForeverDoesNotReturn : Prop :=
  ∀ (s : State) (bytes : Nat → Byte), s.Inv → s.pollInFlight = true → s.inputs = [] →
    s.fstate = .seekingHeader → s.pos = 0#5 →
    (∀ b ∈ s.contents, b ≠ 0x20#8) → (∀ k, bytes k ≠ 0x20#8) →
    ∀ n, ∃ t, s.run (linkDraw fun k => if k % 2 = 0 then some (bytes (k / 2)) else none) n = some t ∧
      t.pollInFlight = true ∧ t.qResult = none

/-- A valid frame is emitted whole (R121 to R124, the source's W3): when the framer seeks at position 0 and the bytes held
begin with `20 40` and 30 bytes with no header pair among bytes 2 to 31, the poll in flight returns 1 with its 32nd
micro-step, the frame register holds those bytes, the bytes behind them are still in the FIFO, and no fault is recorded,
so that the run ends gone wrong only if it began so (R163; log 2 as above). -/
def Obligations.ValidFrameIsEmitted : Prop :=
  ∀ (s : State) (frame rest : List Byte), s.Inv → s.pollInFlight = true → s.inputs = [] →
    s.fstate = .seekingHeader → s.pos = 0#5 →
    s.contents = frame ++ rest → frame.length = 32 → frame[0]? = some 0x20#8 → frame[1]? = some 0x40#8 →
    (¬ ∃ i, 2 ≤ i ∧ i ≤ 30 ∧ frame[i]? = some 0x20#8 ∧ frame[i + 1]? = some 0x40#8) →
    ∃ t, State.steps 32 s = some t ∧ t.pollInFlight = false ∧ t.qResult = some 1#32 ∧
      t.frameValid = true ∧ (∀ i < 32, frame[i]? = some (t.frameByte i)) ∧ t.contents = rest ∧
      t.fstate = .seekingHeader ∧ t.pos = 0#5 ∧ t.fault = s.fault

/-- A candidate with an embedded header is lost whole (R123, R125, R132, the source's W4): after its 32 bytes the framer
seeks at position 0 again, the bytes behind it are untouched, the frame register is as before, and the poll goes on;
a reject is no fault (R160), and none is recorded (log 2 as above). -/
def Obligations.EmbeddedHeaderFrameIsLost : Prop :=
  ∀ (s : State) (frame rest : List Byte), s.Inv → s.pollInFlight = true → s.inputs = [] →
    s.fstate = .seekingHeader → s.pos = 0#5 →
    s.contents = frame ++ rest → frame.length = 32 → frame[0]? = some 0x20#8 → frame[1]? = some 0x40#8 →
    (∃ i, 2 ≤ i ∧ i ≤ 30 ∧ frame[i]? = some 0x20#8 ∧ frame[i + 1]? = some 0x40#8) →
    ∃ t, State.steps 32 s = some t ∧ t.pollInFlight = true ∧ t.contents = rest ∧
      t.fstate = .seekingHeader ∧ t.pos = 0#5 ∧ t.frame = s.frame ∧ t.frameValid = s.frameValid ∧
      t.fault = s.fault

/-- The framer's outcome and its next state depend only on its own state and on the byte it consumes (R129), not on the
rest of the block, nor on the bytes of `ACCBUF` from the position on, which the candidate has not stored (R30): two states
that agree on these give the same result, the same framer state and, on an emit, the same frame. -/
def Obligations.FramerDependsOnlyOnBytes : Prop :=
  ∀ (s1 s2 t1 t2 : State) (b : Byte), s1.HasByte b → s2.HasByte b →
    s1.fstate = s2.fstate → s1.pos = s2.pos → (∀ i < s1.pos.toNat, s1.accByte i = s2.accByte i) →
    exec .framerStep s1 = .next t1 → exec .framerStep s2 = .next t2 →
    t1.qResult = t2.qResult ∧ t1.fstate = t2.fstate ∧ t1.pos = t2.pos ∧
      (∀ i < t1.pos.toNat, t1.accByte i = t2.accByte i) ∧
      (t1.qResult = some 2#32 → ∀ i < 32, t1.frameByte i = t2.frameByte i)

/-- For a given sequence of bytes consumed, the sequence of outcomes and the frames emitted are fixed (R129): two blocks,
of any capacity, epoch and history, whose framers agree and whose buffers begin with the same bytes give the same
results and frames over those bytes, and their framers agree again after them. -/
def Obligations.FramerOutputDependsOnlyOnBytes : Prop :=
  ∀ (s1 s2 : State) (bs rest1 rest2 : List Byte),
    s1.head.toNat < s1.cap → s1.tail.toNat < s1.cap → s2.head.toNat < s2.cap → s2.tail.toNat < s2.cap →
    s1.contents = bs ++ rest1 → s2.contents = bs ++ rest2 →
    s1.fstate = s2.fstate → s1.pos = s2.pos → (∀ i < s1.pos.toNat, s1.accByte i = s2.accByte i) →
    ∃ t1 t2 outcomes, State.framerAll bs.length s1 = some (t1, outcomes) ∧
      State.framerAll bs.length s2 = some (t2, outcomes) ∧
      t1.contents = rest1 ∧ t2.contents = rest2 ∧ t1.fstate = t2.fstate ∧ t1.pos = t2.pos ∧
      ∀ i < t1.pos.toNat, t1.accByte i = t2.accByte i

/-- R130: a frame a framer step emits starts with the header and holds no header pair at a start index from 2 to 30. -/
def Obligations.EmittedFrameIsValid : Prop :=
  ∀ (s t : State), s.Inv → exec .framerStep s = .next t → t.qResult = some 2#32 →
    t.frameValid = true ∧ t.frameByte 0 = 0x20#8 ∧ t.frameByte 1 = 0x40#8 ∧
      ¬ ∃ i, 2 ≤ i ∧ i ≤ 30 ∧ t.frameByte i = 0x20#8 ∧ t.frameByte (i + 1) = 0x40#8

/-! ### Frame read-out and status (42_frame_readout.md) -/

/-- R140: `FRAME_READ` returns the byte of the frame register at its index, widened with zeros, and changes nothing of the
block; when no frame has been emitted since reset the byte is unspecified (that it is the free byte of this epoch and
index is the model's choice, log 5). -/
def Obligations.FrameReadResult : Prop :=
  ∀ (s : State) (i : BitVec 5),
    exec (.frameRead i) s = .next { s with qResult := some ((s.frameByte i.toNat).setWidth 32) } ∧
    (s.Inv → s.frameValid = false → s.frameByte i.toNat = Config.unspecifiedByte .frame s.epoch i.toNat)

/-- R141, R54: a channel in range returns its two bytes as a little-endian number; a channel out of range returns 1500 and
is no fault; nothing of the block changes. -/
def Obligations.ChanDecodeResult : Prop :=
  ∀ (s : State) (ch : BitVec 8),
    (1 ≤ ch.toNat ∧ ch.toNat ≤ 14 →
      exec (.chanDecode ch) s = .next { s with qResult := some (BitVec.ofNat 32
        ((s.frameByte (2 + (ch.toNat - 1) * 2)).toNat +
          256 * (s.frameByte (3 + (ch.toNat - 1) * 2)).toNat)) }) ∧
    (ch.toNat = 0 ∨ 15 ≤ ch.toNat →
      exec (.chanDecode ch) s = .next { s with qResult := some 1500#32 })

/-- R36: every field of the status word, the reserved bits 23:21 reading 0, and that reading it changes nothing of the
block; after reset the word is 0. -/
def Obligations.StatusWordFields : Prop :=
  (∀ s : State, ∃ w, exec .statusRead s = .next { s with qResult := some w } ∧
    w.extractLsb' 0 8 = s.head ∧ w.extractLsb' 8 8 = s.tail ∧ w.extractLsb' 16 5 = s.pos ∧
    w.extractLsb' 21 3 = 0#3 ∧ w.getLsbD 24 = decide (s.fstate = .accumulating) ∧
    w.getLsbD 25 = s.frameValid ∧ w.getLsbD 26 = decide (s.head ≠ s.tail) ∧
    w.getLsbD 27 = decide ((s.head.toNat + 1) % s.cap = s.tail.toNat) ∧
    w.extractLsb' 28 4 = s.fault) ∧
  exec .statusRead State.reset = .next { State.reset with qResult := some 0x00000000#32 }

/-- R58: the four operations that only read are idempotent: issued twice in a row they return the same result and leave
the same state (an unspecified byte too keeps its value until the next reset, log 5). -/
def Obligations.ReadsAreIdempotent : Prop :=
  ∀ (s : State) (i : BitVec 5) (ch : BitVec 8), ∀ op ∈ [Instr.fifoAvail, .frameRead i, .chanDecode ch, .statusRead],
    ∃ t, exec op s = .next t ∧ exec op t = .next t

/-! ### Whole-machine rules and invariants -/

/-- R29: the legal framer positions are kept by every step, and hold after reset, where the position is 0. -/
def Obligations.PositionStaysLegal : Prop :=
  (∀ s t : State, s.PosLegal → step s = .next t → t.PosLegal) ∧
  State.reset.PosLegal ∧ State.reset.pos = 0#5

/-- Every step keeps the invariant of the block (R25, R27, R29, R30, R121, R130, R161), from any state that meets it,
whatever the agents do. The form of the arrays and the result words in it are the model's (log 4, log 6). -/
def Obligations.StepKeepsInvariant : Prop :=
  ∀ s t : State, s.Inv → step s = .next t → t.Inv

/-- From any state that meets the invariant a step answers a next state: no access leaves the FIFO, no operation is
refused, and ordinary data never stop the machine (the one fault there is, log 8, is out of reach). -/
def Obligations.StepNeverStops : Prop :=
  ∀ s : State, s.Inv → ∃ t, step s = .next t

/-- What a step does to the bytes held (R27, R60): it leaves them, appends one byte that the producer pushed, removes the
oldest byte by an action of the consumer, or empties the buffer by a host reset. -/
def Obligations.StepActsAsQueue : Prop :=
  ∀ s t : State, s.Inv → step s = .next t →
    t.contents = s.contents ∨
    (∃ b rest, s.inputs = .command .p (encode (.rxPush b)) :: rest ∧ t.contents = s.contents ++ [b]) ∨
    (∃ b, s.contents = b :: t.contents ∧
      ((s.pollInFlight = true ∧ ∀ w rest, s.inputs ≠ .command .p w :: rest) ∨
        ∃ i rest, s.inputs = .command .q (encode i) :: rest ∧ i ∈ [Instr.fifoPop, .framerStep, .framerPoll])) ∨
    (∃ rest, s.inputs = .reset :: rest ∧ t.contents = [])

/-- R61: `HEAD` has exactly one writer, the producer's `RX_PUSH` on the P port, and `TAIL` exactly one, the consumer's
`FIFO_POP`, `FRAMER_STEP` and `FRAMER_POLL` on the Q port, apart from reset; the port binding enforces it. -/
def Obligations.SingleWriterPerIndex : Prop :=
  ∀ s t : State, step s = .next t →
    (t.head ≠ s.head →
      (∃ rest, s.inputs = .reset :: rest) ∨
      (∃ b rest, s.inputs = .command .p (encode (.rxPush b)) :: rest)) ∧
    (t.tail ≠ s.tail →
      (∃ rest, s.inputs = .reset :: rest) ∨
      (s.pollInFlight = true ∧ ∀ w rest, s.inputs ≠ .command .p w :: rest) ∨
      (∃ i rest, s.inputs = .command .q (encode i) :: rest ∧
        i ∈ [Instr.fifoPop, .framerStep, .framerPoll]))

/-- R128: no operation other than `FRAMER_STEP`, alone or inside `FRAMER_POLL`, and the reset event changes `FSTATE`, `POS`
or `ACCBUF`; nor `FRAME` and `FRAME_VALID` (R31, R32). -/
def Obligations.OnlyFramerStepsMoveFramer : Prop :=
  ∀ s t : State, step s = .next t →
    (¬ ∃ rest, s.inputs = .reset :: rest) →
    (s.pollInFlight = false ∨ ∃ w rest, s.inputs = .command .p w :: rest) →
    (∀ rest, s.inputs ≠ .command .q (encode .framerStep) :: rest ∧
      s.inputs ≠ .command .q (encode .framerPoll) :: rest) →
    t.fstate = s.fstate ∧ t.pos = s.pos ∧ t.accbuf = s.accbuf ∧ t.frame = s.frame ∧
      t.frameValid = s.frameValid

/-- R31, R32: a step changes the frame register or `FRAME_VALID` only by a host reset or by an emit (R124, R126): the step
of a framer that accumulates at position 31, which makes all 32 bytes of `FRAME` those of `ACCBUF`, sets `FRAME_VALID` and
seeks at position 0. The emit is a `FRAMER_STEP` with result 2, or ends a poll with result 1: the poll in flight, or a
`FRAMER_POLL` at its issue. -/
def Obligations.FrameChangesOnlyOnEmit : Prop :=
  ∀ s t : State, step s = .next t →
    (∃ rest, s.inputs = .reset :: rest) ∨
    (t.frame = s.frame ∧ t.frameValid = s.frameValid) ∨
    (s.fstate = .accumulating ∧ s.pos = 31#5 ∧
      t.frameValid = true ∧ (∀ i < 32, t.frameByte i = t.accByte i) ∧
      t.fstate = .seekingHeader ∧ t.pos = 0#5 ∧ t.pollInFlight = false ∧
      ((s.pollInFlight = false ∧ t.qResult = some 2#32 ∧
          ∃ rest, s.inputs = .command .q (encode .framerStep) :: rest) ∨
       (s.pollInFlight = false ∧ t.qResult = some 1#32 ∧
          ∃ rest, s.inputs = .command .q (encode .framerPoll) :: rest) ∨
       (s.pollInFlight = true ∧ t.qResult = some 1#32 ∧ ∀ w rest, s.inputs ≠ .command .p w :: rest)))

/-- R33: a fault writes `FAULT` only when it is 0, and no operation clears it: a step other than a host reset keeps a
recorded code, and what a step records is the code of one of the three faults. -/
def Obligations.FaultIsSticky : Prop :=
  (∀ s t : State, step s = .next t →
    (∃ rest, s.inputs = .reset :: rest ∧ t.fault = 0#4) ∨
    t.fault = s.fault ∨
    (s.fault = 0#4 ∧ (t.fault = 1#4 ∨ t.fault = 2#4 ∨ t.fault = 3#4))) ∧
  State.reset.fault = 0#4

/-- R163: after a fault the block goes on: apart from what `STATUS_READ` shows, every operation does the same whatever
code `FAULT` holds, and only `FAULT` differs after it. -/
def Obligations.FaultDoesNotChangeOperations : Prop :=
  ∀ (s t : State) (f : BitVec 4) (i : Instr), i ≠ .statusRead → exec i s = .next t →
    ∃ t', exec i { s with fault := f } = .next t' ∧ t' = { t with fault := t'.fault }

/-- R163: the block that has gone wrong stays so until a reset. A run that ends well, under any draw with no reset, was
well after each of its steps, so the premise "`FAULT == 0` at the end" rules out every fault on the way. -/
def Obligations.CleanEndMeansCleanRun : Prop :=
  ∀ (draw : Draw) (m n : Nat) (s t : State), m ≤ n → (∀ k, AgentAction.reset ∉ draw k) →
    AgentAction.reset ∉ s.inputs → s.EndsWell draw n t → ∃ u, s.EndsWell draw m u

/-- Under any draw of the agents, finite or without end (R59, R104), a run from a state that meets the invariant never
stops, and meets it after every number of steps (log 2; the invariant's form as in `StepKeepsInvariant`). -/
def Obligations.RunsKeepInvariant : Prop :=
  ∀ (draw : Draw) (s : State) (n : Nat), s.Inv → ∃ t, s.run draw n = some t ∧ t.Inv

/-- R7: `CAP` is fixed for the life of an instance: no step changes it. -/
def Obligations.CapIsFixed : Prop :=
  ∀ s t : State, step s = .next t → t.build = s.build

/-! ### Assembler notation (30_encoding.md R81, R82) -/

/-- R81: what a line of each of the eight mnemonics stands for, on either port: the word with its operand, or, with an
operand missing, superfluous or out of its form's range, an assembly error and no word. The lines that are an assembly
error are exactly the ill-formed ones. -/
def Obligations.WellFormedLinesAssemble : Prop :=
  ∀ port : Port,
    (∀ n ≤ 255, assemble ⟨port, .rxPush, [n]⟩ = some [.command port (BitVec.ofNat 16 (0x1000 + n))]) ∧
    (∀ n, 256 ≤ n → assemble ⟨port, .rxPush, [n]⟩ = none) ∧
    (∀ n ≤ 31, assemble ⟨port, .frameRead, [n]⟩ = some [.command port (BitVec.ofNat 16 (0x6000 + n))]) ∧
    (∀ n, 32 ≤ n → assemble ⟨port, .frameRead, [n]⟩ = none) ∧
    (∀ n ≤ 255, assemble ⟨port, .chanDecode, [n]⟩ = some [.command port (BitVec.ofNat 16 (0x7000 + n))]) ∧
    (∀ n, 256 ≤ n → assemble ⟨port, .chanDecode, [n]⟩ = none) ∧
    (∀ m ∈ [Mnemonic.rxPush, .frameRead, .chanDecode], ∀ ops : List Nat, ops.length ≠ 1 →
      assemble ⟨port, m, ops⟩ = none) ∧
    assemble ⟨port, .fifoAvail, []⟩ = some [.command port 0x2000#16] ∧
    assemble ⟨port, .fifoPop, []⟩ = some [.command port 0x3000#16] ∧
    assemble ⟨port, .framerStep, []⟩ = some [.command port 0x4000#16] ∧
    assemble ⟨port, .framerPoll, []⟩ = some [.command port 0x5000#16] ∧
    assemble ⟨port, .statusRead, []⟩ = some [.command port 0x8000#16] ∧
    (∀ m ∈ [Mnemonic.fifoAvail, .fifoPop, .framerStep, .framerPoll, .statusRead], ∀ ops : List Nat, ops ≠ [] →
      assemble ⟨port, m, ops⟩ = none) ∧
    (∀ l : AsmLine, assemble l = none ↔ l.wellFormed = false)

/-- R82: `RX_FEED` stands for one `RX_PUSH` on the P port for each of its operands, in that order; with no operand, on the
Q port, or with an operand above 255 it is an assembly error. -/
def Obligations.RxFeedIsPushes : Prop :=
  (∀ ops : List Nat, ops ≠ [] → (∀ n ∈ ops, n ≤ 255) →
    assemble ⟨.p, .rxFeed, ops⟩ = some (ops.map fun n => .command .p (BitVec.ofNat 16 (0x1000 + n)))) ∧
  (∀ port, assemble ⟨port, .rxFeed, []⟩ = none) ∧
  (∀ ops : List Nat, assemble ⟨.q, .rxFeed, ops⟩ = none) ∧
  (∀ (port : Port) (ops : List Nat), (∃ n ∈ ops, 256 ≤ n) → assemble ⟨port, .rxFeed, ops⟩ = none)
end

