-- ==== Sys2Proof/Laws/Decode.lean ====
section
/-!
SUPPORT. The fields of a command word, and that every word is put together from its fields (30_encoding.md R70).
-/
namespace Sys2Proof

theorem toNat_commandWord (op rsv : BitVec 4) (imm : BitVec 8) :
    (commandWord op rsv imm).toNat = op.toNat * 4096 + rsv.toNat * 256 + imm.toNat := by
  have h1 := op.isLt
  have h2 := rsv.isLt
  have h3 := imm.isLt
  unfold commandWord
  rw [BitVec.toNat_append, BitVec.toNat_append, ← Nat.shiftLeft_add_eq_or_of_lt (by omega),
    ← Nat.shiftLeft_add_eq_or_of_lt (by omega), Nat.shiftLeft_eq, Nat.shiftLeft_eq]
  omega

theorem toNat_opField (w : CommandWord) : (opField w).toNat = w.toNat / 4096 := by
  have h := w.isLt
  rw [opField, BitVec.extractLsb'_toNat, Nat.shiftRight_eq_div_pow]
  omega

theorem toNat_rsvField (w : CommandWord) : (rsvField w).toNat = w.toNat / 256 % 16 := by
  rw [rsvField, BitVec.extractLsb'_toNat, Nat.shiftRight_eq_div_pow]

theorem toNat_immField (w : CommandWord) : (immField w).toNat = w.toNat % 256 := by
  rw [immField, BitVec.extractLsb'_toNat, Nat.shiftRight_eq_div_pow]
  omega

theorem toNat_idxField (imm : BitVec 8) : (idxField imm).toNat = imm.toNat % 32 := by
  rw [idxField, BitVec.extractLsb'_toNat, Nat.shiftRight_eq_div_pow]
  omega

theorem toNat_idxHighField (imm : BitVec 8) : (idxHighField imm).toNat = imm.toNat / 32 := by
  have h := imm.isLt
  rw [idxHighField, BitVec.extractLsb'_toNat, Nat.shiftRight_eq_div_pow]
  omega

@[simp] theorem opField_commandWord (op rsv : BitVec 4) (imm : BitVec 8) :
    opField (commandWord op rsv imm) = op := by
  have h1 := op.isLt
  have h2 := rsv.isLt
  have h3 := imm.isLt
  apply BitVec.eq_of_toNat_eq
  rw [toNat_opField, toNat_commandWord]
  omega

@[simp] theorem rsvField_commandWord (op rsv : BitVec 4) (imm : BitVec 8) :
    rsvField (commandWord op rsv imm) = rsv := by
  have h2 := rsv.isLt
  have h3 := imm.isLt
  apply BitVec.eq_of_toNat_eq
  rw [toNat_rsvField, toNat_commandWord]
  omega

@[simp] theorem immField_commandWord (op rsv : BitVec 4) (imm : BitVec 8) :
    immField (commandWord op rsv imm) = imm := by
  have h3 := imm.isLt
  apply BitVec.eq_of_toNat_eq
  rw [toNat_immField, toNat_commandWord]
  omega

/-- Every word is put together from its fields. -/
theorem commandWord_fields (w : CommandWord) :
    commandWord (opField w) (rsvField w) (immField w) = w := by
  apply BitVec.eq_of_toNat_eq
  rw [toNat_commandWord, toNat_opField, toNat_rsvField, toNat_immField]
  omega

/-- A mask that keeps `OP` and `RSV` and some bits of `IMM8` acts field by field (R73). -/
theorem commandWord_and (op rsv op' rsv' : BitVec 4) (imm imm' : BitVec 8) :
    commandWord op rsv imm &&& commandWord op' rsv' imm' =
      commandWord (op &&& op') (rsv &&& rsv') (imm &&& imm') := by
  unfold commandWord
  rw [BitVec.and_append, BitVec.and_append]

theorem commandWord_inj {op rsv op' rsv' : BitVec 4} {imm imm' : BitVec 8} :
    commandWord op rsv imm = commandWord op' rsv' imm' ↔ op = op' ∧ rsv = rsv' ∧ imm = imm' := by
  constructor
  · intro h
    refine ⟨?_, ?_, ?_⟩
    · simpa using congrArg opField h
    · simpa using congrArg rsvField h
    · simpa using congrArg immField h
  · rintro ⟨rfl, rfl, rfl⟩; rfl

end Sys2Proof
end

