-- ==== Sys2Proof/Laws/Memory.lean ====
section
/-!
SUPPORT. The laws of the byte arrays: a read after a write, the bytes of an array made from a list, and that both
operations keep the canonical form.
-/
namespace Sys2Proof.Machine

@[simp] theorem Memory.read?_nil (i : Nat) : Memory.read? [] i = none := rfl

theorem Memory.read?_write (m : Memory) (i j : Nat) (b : Byte) :
    (m.write i b).read? j = if j = i then some b else m.read? j := by
  induction m with
  | nil => simp [Memory.write, Memory.read?, eq_comm]
  | cons e m ih =>
    obtain ⟨a, c⟩ := e
    unfold Memory.write
    by_cases hlt : i < a
    · simp [hlt, Memory.read?, eq_comm]
    · by_cases heq : i = a
      · subst heq
        by_cases hj : j = i
        · simp [Memory.read?, hj]
        · simp [Memory.read?, hj, Ne.symm hj]
      · rw [if_neg hlt, if_neg heq]
        by_cases hj : a = j
        · subst hj; simp [Memory.read?, Ne.symm heq]
        · simp [Memory.read?, hj, ih]

@[simp] theorem Memory.read?_write_self (m : Memory) (i : Nat) (b : Byte) :
    (m.write i b).read? i = some b := by simp [Memory.read?_write]

theorem Memory.read?_write_ne (m : Memory) {i j : Nat} (b : Byte) (h : j ≠ i) :
    (m.write i b).read? j = m.read? j := by simp [Memory.read?_write, h]

/-- A write lists its cell and unlists none. -/
theorem Memory.isSome_read?_write (m : Memory) (i j : Nat) (b : Byte) :
    ((m.write i b).read? j).isSome = (decide (j = i) || (m.read? j).isSome) := by
  by_cases h : j = i <;> simp [Memory.read?_write, h]

/-- The index of every listed cell is at least `lo`, and the array is in canonical form. -/
def Memory.wfFrom (size : Nat) : Nat → Memory → Prop
  | _, [] => True
  | lo, (a, _) :: m => lo ≤ a ∧ a < size ∧ Memory.wfFrom size (a + 1) m

theorem Memory.wfFrom_mono {size lo lo' : Nat} {m : Memory} (h : lo' ≤ lo) :
    Memory.wfFrom size lo m → Memory.wfFrom size lo' m := by
  cases m with
  | nil => exact id
  | cons e m => exact fun ⟨h1, h2, h3⟩ => ⟨h.trans h1, h2, h3⟩

theorem Memory.wf_cons_iff (size a : Nat) (b : Byte) (m : Memory) :
    Memory.wf size ((a, b) :: m) = true ↔ a < size ∧ Memory.wfFrom size (a + 1) m := by
  induction m generalizing a b with
  | nil => simp [Memory.wf, Memory.wfFrom]
  | cons e m ih =>
    obtain ⟨a', b'⟩ := e
    simp only [Memory.wf, Bool.and_eq_true, decide_eq_true_eq, ih, Memory.wfFrom]
    constructor
    · rintro ⟨h1, h2, h3⟩; exact ⟨by omega, by omega, h2, h3⟩
    · rintro ⟨_, h1, h2, h3⟩; exact ⟨by omega, h2, h3⟩

theorem Memory.wf_iff (size : Nat) (m : Memory) :
    m.wf size = true ↔ Memory.wfFrom size 0 m := by
  cases m with
  | nil => simp [Memory.wf, Memory.wfFrom]
  | cons e m =>
    obtain ⟨a, b⟩ := e
    simp [Memory.wf_cons_iff, Memory.wfFrom]

theorem Memory.wfFrom_write {size lo : Nat} {m : Memory} {i : Nat} (b : Byte)
    (h : Memory.wfFrom size lo m) (hlo : lo ≤ i) (hi : i < size) :
    Memory.wfFrom size lo (m.write i b) := by
  induction m generalizing lo with
  | nil => exact ⟨hlo, hi, trivial⟩
  | cons e m ih =>
    obtain ⟨a, c⟩ := e
    obtain ⟨h1, h2, h3⟩ := h
    unfold Memory.write
    split
    · exact ⟨hlo, hi, by omega, h2, h3⟩
    · split
      · subst_vars; exact ⟨hlo, hi, h3⟩
      · exact ⟨h1, h2, ih h3 (by omega)⟩

/-- A write below `size` keeps the canonical form. -/
theorem Memory.wf_write {size : Nat} {m : Memory} {i : Nat} (b : Byte)
    (h : m.wf size = true) (hi : i < size) : (m.write i b).wf size = true := by
  rw [Memory.wf_iff] at h ⊢
  exact Memory.wfFrom_write b h (Nat.zero_le i) hi

theorem Memory.read?_ofBytes (k : Nat) (bs : List Byte) (j : Nat) :
    (Memory.ofBytes k bs).read? j = if k ≤ j then bs[j - k]? else none := by
  induction bs generalizing k with
  | nil => simp [Memory.ofBytes]
  | cons b bs ih =>
    rw [Memory.ofBytes, Memory.read?]
    by_cases hk : k = j
    · subst hk; simp
    · rw [if_neg hk, ih]
      by_cases hle : k ≤ j
      · obtain ⟨d, rfl⟩ : ∃ d, j = k + 1 + d := ⟨j - (k + 1), by omega⟩
        have : k + 1 + d - k = d + 1 := by omega
        simp [this, hle]
      · simp [hle, show ¬ k + 1 ≤ j by omega]

theorem Memory.wfFrom_ofBytes {size k : Nat} {bs : List Byte} (h : k + bs.length ≤ size) :
    Memory.wfFrom size k (Memory.ofBytes k bs) := by
  induction bs generalizing k with
  | nil => trivial
  | cons b bs ih =>
    simp only [List.length_cons] at h
    exact ⟨le_rfl, by omega, ih (by omega)⟩

/-- An array made from at most `size` bytes is in canonical form. -/
theorem Memory.wf_ofBytes {size : Nat} {bs : List Byte} (h : bs.length ≤ size) :
    (Memory.ofBytes 0 bs).wf size = true := by
  rw [Memory.wf_iff]; exact Memory.wfFrom_ofBytes (by omega)

end Sys2Proof.Machine
end

