-- ==== Sys2Proof/Laws/State.lean ====
section
/-!
SUPPORT. One lemma for each field and each named update of the state, true by rfl, so that no proof unfolds an
update; and the reads that an update does not touch.
-/
namespace Sys2Proof.Machine

@[simp] theorem State.storeAcc_build (s : State) (i : Nat) (b : Byte) :
    (s.storeAcc i b).build = s.build := rfl
@[simp] theorem State.storeAcc_head (s : State) (i : Nat) (b : Byte) : (s.storeAcc i b).head = s.head := rfl
@[simp] theorem State.storeAcc_tail (s : State) (i : Nat) (b : Byte) : (s.storeAcc i b).tail = s.tail := rfl
@[simp] theorem State.storeAcc_fifo (s : State) (i : Nat) (b : Byte) : (s.storeAcc i b).fifo = s.fifo := rfl
@[simp] theorem State.storeAcc_fstate (s : State) (i : Nat) (b : Byte) :
    (s.storeAcc i b).fstate = s.fstate := rfl
@[simp] theorem State.storeAcc_pos (s : State) (i : Nat) (b : Byte) : (s.storeAcc i b).pos = s.pos := rfl
@[simp] theorem State.storeAcc_accbuf (s : State) (i : Nat) (b : Byte) :
    (s.storeAcc i b).accbuf = s.accbuf.write i b := rfl
@[simp] theorem State.storeAcc_frame (s : State) (i : Nat) (b : Byte) :
    (s.storeAcc i b).frame = s.frame := rfl
@[simp] theorem State.storeAcc_frameValid (s : State) (i : Nat) (b : Byte) :
    (s.storeAcc i b).frameValid = s.frameValid := rfl
@[simp] theorem State.storeAcc_fault (s : State) (i : Nat) (b : Byte) :
    (s.storeAcc i b).fault = s.fault := rfl
@[simp] theorem State.storeAcc_pollInFlight (s : State) (i : Nat) (b : Byte) :
    (s.storeAcc i b).pollInFlight = s.pollInFlight := rfl
@[simp] theorem State.storeAcc_pResult (s : State) (i : Nat) (b : Byte) :
    (s.storeAcc i b).pResult = s.pResult := rfl
@[simp] theorem State.storeAcc_qResult (s : State) (i : Nat) (b : Byte) :
    (s.storeAcc i b).qResult = s.qResult := rfl
@[simp] theorem State.storeAcc_inputs (s : State) (i : Nat) (b : Byte) :
    (s.storeAcc i b).inputs = s.inputs := rfl
@[simp] theorem State.storeAcc_epoch (s : State) (i : Nat) (b : Byte) :
    (s.storeAcc i b).epoch = s.epoch := rfl

@[simp] theorem State.takeByte_build (s : State) : (s.takeByte).build = s.build := rfl
@[simp] theorem State.takeByte_head (s : State) : (s.takeByte).head = s.head := rfl
@[simp] theorem State.takeByte_tail (s : State) : (s.takeByte).tail = s.advance s.tail := rfl
@[simp] theorem State.takeByte_fifo (s : State) : (s.takeByte).fifo = s.fifo := rfl
@[simp] theorem State.takeByte_fstate (s : State) : (s.takeByte).fstate = s.fstate := rfl
@[simp] theorem State.takeByte_pos (s : State) : (s.takeByte).pos = s.pos := rfl
@[simp] theorem State.takeByte_accbuf (s : State) : (s.takeByte).accbuf = s.accbuf := rfl
@[simp] theorem State.takeByte_frame (s : State) : (s.takeByte).frame = s.frame := rfl
@[simp] theorem State.takeByte_frameValid (s : State) : (s.takeByte).frameValid = s.frameValid := rfl
@[simp] theorem State.takeByte_fault (s : State) : (s.takeByte).fault = s.fault := rfl
@[simp] theorem State.takeByte_pollInFlight (s : State) : (s.takeByte).pollInFlight = s.pollInFlight := rfl
@[simp] theorem State.takeByte_pResult (s : State) : (s.takeByte).pResult = s.pResult := rfl
@[simp] theorem State.takeByte_qResult (s : State) : (s.takeByte).qResult = s.qResult := rfl
@[simp] theorem State.takeByte_inputs (s : State) : (s.takeByte).inputs = s.inputs := rfl
@[simp] theorem State.takeByte_epoch (s : State) : (s.takeByte).epoch = s.epoch := rfl

@[simp] theorem State.setPoll_build (s : State) (f : Bool) (r : Option ResultWord) :
    (s.setPoll f r).build = s.build := rfl
@[simp] theorem State.setPoll_head (s : State) (f : Bool) (r : Option ResultWord) :
    (s.setPoll f r).head = s.head := rfl
@[simp] theorem State.setPoll_tail (s : State) (f : Bool) (r : Option ResultWord) :
    (s.setPoll f r).tail = s.tail := rfl
@[simp] theorem State.setPoll_fifo (s : State) (f : Bool) (r : Option ResultWord) :
    (s.setPoll f r).fifo = s.fifo := rfl
@[simp] theorem State.setPoll_fstate (s : State) (f : Bool) (r : Option ResultWord) :
    (s.setPoll f r).fstate = s.fstate := rfl
@[simp] theorem State.setPoll_pos (s : State) (f : Bool) (r : Option ResultWord) :
    (s.setPoll f r).pos = s.pos := rfl
@[simp] theorem State.setPoll_accbuf (s : State) (f : Bool) (r : Option ResultWord) :
    (s.setPoll f r).accbuf = s.accbuf := rfl
@[simp] theorem State.setPoll_frame (s : State) (f : Bool) (r : Option ResultWord) :
    (s.setPoll f r).frame = s.frame := rfl
@[simp] theorem State.setPoll_frameValid (s : State) (f : Bool) (r : Option ResultWord) :
    (s.setPoll f r).frameValid = s.frameValid := rfl
@[simp] theorem State.setPoll_fault (s : State) (f : Bool) (r : Option ResultWord) :
    (s.setPoll f r).fault = s.fault := rfl
@[simp] theorem State.setPoll_pollInFlight (s : State) (f : Bool) (r : Option ResultWord) :
    (s.setPoll f r).pollInFlight = f := rfl
@[simp] theorem State.setPoll_pResult (s : State) (f : Bool) (r : Option ResultWord) :
    (s.setPoll f r).pResult = s.pResult := rfl
@[simp] theorem State.setPoll_qResult (s : State) (f : Bool) (r : Option ResultWord) :
    (s.setPoll f r).qResult = r := rfl
@[simp] theorem State.setPoll_inputs (s : State) (f : Bool) (r : Option ResultWord) :
    (s.setPoll f r).inputs = s.inputs := rfl
@[simp] theorem State.setPoll_epoch (s : State) (f : Bool) (r : Option ResultWord) :
    (s.setPoll f r).epoch = s.epoch := rfl

@[simp] theorem State.setPos_build (s : State) (i : BitVec 5) : (s.setPos i).build = s.build := rfl
@[simp] theorem State.setPos_head (s : State) (i : BitVec 5) : (s.setPos i).head = s.head := rfl
@[simp] theorem State.setPos_tail (s : State) (i : BitVec 5) : (s.setPos i).tail = s.tail := rfl
@[simp] theorem State.setPos_fifo (s : State) (i : BitVec 5) : (s.setPos i).fifo = s.fifo := rfl
@[simp] theorem State.setPos_fstate (s : State) (i : BitVec 5) : (s.setPos i).fstate = s.fstate := rfl
@[simp] theorem State.setPos_pos (s : State) (i : BitVec 5) : (s.setPos i).pos = i := rfl
@[simp] theorem State.setPos_accbuf (s : State) (i : BitVec 5) : (s.setPos i).accbuf = s.accbuf := rfl
@[simp] theorem State.setPos_frame (s : State) (i : BitVec 5) : (s.setPos i).frame = s.frame := rfl
@[simp] theorem State.setPos_frameValid (s : State) (i : BitVec 5) :
    (s.setPos i).frameValid = s.frameValid := rfl
@[simp] theorem State.setPos_fault (s : State) (i : BitVec 5) : (s.setPos i).fault = s.fault := rfl
@[simp] theorem State.setPos_pollInFlight (s : State) (i : BitVec 5) :
    (s.setPos i).pollInFlight = s.pollInFlight := rfl
@[simp] theorem State.setPos_pResult (s : State) (i : BitVec 5) : (s.setPos i).pResult = s.pResult := rfl
@[simp] theorem State.setPos_qResult (s : State) (i : BitVec 5) : (s.setPos i).qResult = s.qResult := rfl
@[simp] theorem State.setPos_inputs (s : State) (i : BitVec 5) : (s.setPos i).inputs = s.inputs := rfl
@[simp] theorem State.setPos_epoch (s : State) (i : BitVec 5) : (s.setPos i).epoch = s.epoch := rfl

@[simp] theorem State.setFstate_build (s : State) (f : FramerState) : (s.setFstate f).build = s.build := rfl
@[simp] theorem State.setFstate_head (s : State) (f : FramerState) : (s.setFstate f).head = s.head := rfl
@[simp] theorem State.setFstate_tail (s : State) (f : FramerState) : (s.setFstate f).tail = s.tail := rfl
@[simp] theorem State.setFstate_fifo (s : State) (f : FramerState) : (s.setFstate f).fifo = s.fifo := rfl
@[simp] theorem State.setFstate_fstate (s : State) (f : FramerState) : (s.setFstate f).fstate = f := rfl
@[simp] theorem State.setFstate_pos (s : State) (f : FramerState) : (s.setFstate f).pos = s.pos := rfl
@[simp] theorem State.setFstate_accbuf (s : State) (f : FramerState) :
    (s.setFstate f).accbuf = s.accbuf := rfl
@[simp] theorem State.setFstate_frame (s : State) (f : FramerState) : (s.setFstate f).frame = s.frame := rfl
@[simp] theorem State.setFstate_frameValid (s : State) (f : FramerState) :
    (s.setFstate f).frameValid = s.frameValid := rfl
@[simp] theorem State.setFstate_fault (s : State) (f : FramerState) : (s.setFstate f).fault = s.fault := rfl
@[simp] theorem State.setFstate_pollInFlight (s : State) (f : FramerState) :
    (s.setFstate f).pollInFlight = s.pollInFlight := rfl
@[simp] theorem State.setFstate_pResult (s : State) (f : FramerState) :
    (s.setFstate f).pResult = s.pResult := rfl
@[simp] theorem State.setFstate_qResult (s : State) (f : FramerState) :
    (s.setFstate f).qResult = s.qResult := rfl
@[simp] theorem State.setFstate_inputs (s : State) (f : FramerState) :
    (s.setFstate f).inputs = s.inputs := rfl
@[simp] theorem State.setFstate_epoch (s : State) (f : FramerState) : (s.setFstate f).epoch = s.epoch := rfl

@[simp] theorem State.reject_build (s : State) : (s.reject).build = s.build := rfl
@[simp] theorem State.reject_head (s : State) : (s.reject).head = s.head := rfl
@[simp] theorem State.reject_tail (s : State) : (s.reject).tail = s.tail := rfl
@[simp] theorem State.reject_fifo (s : State) : (s.reject).fifo = s.fifo := rfl
@[simp] theorem State.reject_fstate (s : State) : (s.reject).fstate = .seekingHeader := rfl
@[simp] theorem State.reject_pos (s : State) : (s.reject).pos = 0#5 := rfl
@[simp] theorem State.reject_accbuf (s : State) : (s.reject).accbuf = s.accbuf := rfl
@[simp] theorem State.reject_frame (s : State) : (s.reject).frame = s.frame := rfl
@[simp] theorem State.reject_frameValid (s : State) : (s.reject).frameValid = s.frameValid := rfl
@[simp] theorem State.reject_fault (s : State) : (s.reject).fault = s.fault := rfl
@[simp] theorem State.reject_pollInFlight (s : State) : (s.reject).pollInFlight = s.pollInFlight := rfl
@[simp] theorem State.reject_pResult (s : State) : (s.reject).pResult = s.pResult := rfl
@[simp] theorem State.reject_qResult (s : State) : (s.reject).qResult = s.qResult := rfl
@[simp] theorem State.reject_inputs (s : State) : (s.reject).inputs = s.inputs := rfl
@[simp] theorem State.reject_epoch (s : State) : (s.reject).epoch = s.epoch := rfl

@[simp] theorem State.emit_build (s : State) : (s.emit).build = s.build := rfl
@[simp] theorem State.emit_head (s : State) : (s.emit).head = s.head := rfl
@[simp] theorem State.emit_tail (s : State) : (s.emit).tail = s.tail := rfl
@[simp] theorem State.emit_fifo (s : State) : (s.emit).fifo = s.fifo := rfl
@[simp] theorem State.emit_fstate (s : State) : (s.emit).fstate = .seekingHeader := rfl
@[simp] theorem State.emit_pos (s : State) : (s.emit).pos = 0#5 := rfl
@[simp] theorem State.emit_accbuf (s : State) : (s.emit).accbuf = s.accbuf := rfl
@[simp] theorem State.emit_frame (s : State) :
    (s.emit).frame = Memory.ofBytes 0 ((List.range Config.frameLen).map s.accByte) := rfl
@[simp] theorem State.emit_frameValid (s : State) : (s.emit).frameValid = true := rfl
@[simp] theorem State.emit_fault (s : State) : (s.emit).fault = s.fault := rfl
@[simp] theorem State.emit_pollInFlight (s : State) : (s.emit).pollInFlight = s.pollInFlight := rfl
@[simp] theorem State.emit_pResult (s : State) : (s.emit).pResult = s.pResult := rfl
@[simp] theorem State.emit_qResult (s : State) : (s.emit).qResult = s.qResult := rfl
@[simp] theorem State.emit_inputs (s : State) : (s.emit).inputs = s.inputs := rfl
@[simp] theorem State.emit_epoch (s : State) : (s.emit).epoch = s.epoch := rfl

@[simp] theorem State.hostReset_build (s : State) : (s.hostReset).build = s.build := rfl
@[simp] theorem State.hostReset_head (s : State) : (s.hostReset).head = 0#8 := rfl
@[simp] theorem State.hostReset_tail (s : State) : (s.hostReset).tail = 0#8 := rfl
@[simp] theorem State.hostReset_fifo (s : State) : (s.hostReset).fifo = [] := rfl
@[simp] theorem State.hostReset_fstate (s : State) : (s.hostReset).fstate = .seekingHeader := rfl
@[simp] theorem State.hostReset_pos (s : State) : (s.hostReset).pos = 0#5 := rfl
@[simp] theorem State.hostReset_accbuf (s : State) : (s.hostReset).accbuf = [] := rfl
@[simp] theorem State.hostReset_frame (s : State) : (s.hostReset).frame = [] := rfl
@[simp] theorem State.hostReset_frameValid (s : State) : (s.hostReset).frameValid = false := rfl
@[simp] theorem State.hostReset_fault (s : State) : (s.hostReset).fault = 0#4 := rfl
@[simp] theorem State.hostReset_pollInFlight (s : State) : (s.hostReset).pollInFlight = false := rfl
@[simp] theorem State.hostReset_pResult (s : State) : (s.hostReset).pResult = s.pResult := rfl
@[simp] theorem State.hostReset_qResult (s : State) : (s.hostReset).qResult = s.qResult := rfl
@[simp] theorem State.hostReset_inputs (s : State) : (s.hostReset).inputs = s.inputs := rfl
@[simp] theorem State.hostReset_epoch (s : State) : (s.hostReset).epoch = s.epoch + 1 := rfl

@[simp] theorem State.beginPoll_build (s : State) : (s.beginPoll).build = s.build := rfl
@[simp] theorem State.beginPoll_head (s : State) : (s.beginPoll).head = s.head := rfl
@[simp] theorem State.beginPoll_tail (s : State) : (s.beginPoll).tail = s.tail := rfl
@[simp] theorem State.beginPoll_fifo (s : State) : (s.beginPoll).fifo = s.fifo := rfl
@[simp] theorem State.beginPoll_fstate (s : State) : (s.beginPoll).fstate = s.fstate := rfl
@[simp] theorem State.beginPoll_pos (s : State) : (s.beginPoll).pos = s.pos := rfl
@[simp] theorem State.beginPoll_accbuf (s : State) : (s.beginPoll).accbuf = s.accbuf := rfl
@[simp] theorem State.beginPoll_frame (s : State) : (s.beginPoll).frame = s.frame := rfl
@[simp] theorem State.beginPoll_frameValid (s : State) : (s.beginPoll).frameValid = s.frameValid := rfl
@[simp] theorem State.beginPoll_fault (s : State) : (s.beginPoll).fault = s.fault := rfl
@[simp] theorem State.beginPoll_pollInFlight (s : State) : (s.beginPoll).pollInFlight = true := rfl
@[simp] theorem State.beginPoll_pResult (s : State) : (s.beginPoll).pResult = s.pResult := rfl
@[simp] theorem State.beginPoll_qResult (s : State) : (s.beginPoll).qResult = none := rfl
@[simp] theorem State.beginPoll_inputs (s : State) : (s.beginPoll).inputs = s.inputs := rfl
@[simp] theorem State.beginPoll_epoch (s : State) : (s.beginPoll).epoch = s.epoch := rfl

@[simp] theorem State.endPoll_build (s : State) (r : ResultWord) : (s.endPoll r).build = s.build := rfl
@[simp] theorem State.endPoll_head (s : State) (r : ResultWord) : (s.endPoll r).head = s.head := rfl
@[simp] theorem State.endPoll_tail (s : State) (r : ResultWord) : (s.endPoll r).tail = s.tail := rfl
@[simp] theorem State.endPoll_fifo (s : State) (r : ResultWord) : (s.endPoll r).fifo = s.fifo := rfl
@[simp] theorem State.endPoll_fstate (s : State) (r : ResultWord) : (s.endPoll r).fstate = s.fstate := rfl
@[simp] theorem State.endPoll_pos (s : State) (r : ResultWord) : (s.endPoll r).pos = s.pos := rfl
@[simp] theorem State.endPoll_accbuf (s : State) (r : ResultWord) : (s.endPoll r).accbuf = s.accbuf := rfl
@[simp] theorem State.endPoll_frame (s : State) (r : ResultWord) : (s.endPoll r).frame = s.frame := rfl
@[simp] theorem State.endPoll_frameValid (s : State) (r : ResultWord) :
    (s.endPoll r).frameValid = s.frameValid := rfl
@[simp] theorem State.endPoll_fault (s : State) (r : ResultWord) : (s.endPoll r).fault = s.fault := rfl
@[simp] theorem State.endPoll_pollInFlight (s : State) (r : ResultWord) :
    (s.endPoll r).pollInFlight = false := rfl
@[simp] theorem State.endPoll_pResult (s : State) (r : ResultWord) : (s.endPoll r).pResult = s.pResult := rfl
@[simp] theorem State.endPoll_qResult (s : State) (r : ResultWord) : (s.endPoll r).qResult = some r := rfl
@[simp] theorem State.endPoll_inputs (s : State) (r : ResultWord) : (s.endPoll r).inputs = s.inputs := rfl
@[simp] theorem State.endPoll_epoch (s : State) (r : ResultWord) : (s.endPoll r).epoch = s.epoch := rfl

@[simp] theorem State.raiseFault_p_build (s : State) (c : FaultCode) :
    (s.raiseFault .p c).build = s.build := rfl
@[simp] theorem State.raiseFault_p_head (s : State) (c : FaultCode) : (s.raiseFault .p c).head = s.head := rfl
@[simp] theorem State.raiseFault_p_tail (s : State) (c : FaultCode) : (s.raiseFault .p c).tail = s.tail := rfl
@[simp] theorem State.raiseFault_p_fifo (s : State) (c : FaultCode) : (s.raiseFault .p c).fifo = s.fifo := rfl
@[simp] theorem State.raiseFault_p_fstate (s : State) (c : FaultCode) :
    (s.raiseFault .p c).fstate = s.fstate := rfl
@[simp] theorem State.raiseFault_p_pos (s : State) (c : FaultCode) : (s.raiseFault .p c).pos = s.pos := rfl
@[simp] theorem State.raiseFault_p_accbuf (s : State) (c : FaultCode) :
    (s.raiseFault .p c).accbuf = s.accbuf := rfl
@[simp] theorem State.raiseFault_p_frame (s : State) (c : FaultCode) :
    (s.raiseFault .p c).frame = s.frame := rfl
@[simp] theorem State.raiseFault_p_frameValid (s : State) (c : FaultCode) :
    (s.raiseFault .p c).frameValid = s.frameValid := rfl
@[simp] theorem State.raiseFault_p_fault (s : State) (c : FaultCode) :
    (s.raiseFault .p c).fault = (if s.fault = 0#4 then faultBits c else s.fault) := rfl
@[simp] theorem State.raiseFault_p_pollInFlight (s : State) (c : FaultCode) :
    (s.raiseFault .p c).pollInFlight = s.pollInFlight := rfl
@[simp] theorem State.raiseFault_p_pResult (s : State) (c : FaultCode) :
    (s.raiseFault .p c).pResult = some 0#32 := rfl
@[simp] theorem State.raiseFault_p_qResult (s : State) (c : FaultCode) :
    (s.raiseFault .p c).qResult = s.qResult := rfl
@[simp] theorem State.raiseFault_p_inputs (s : State) (c : FaultCode) :
    (s.raiseFault .p c).inputs = s.inputs := rfl
@[simp] theorem State.raiseFault_p_epoch (s : State) (c : FaultCode) :
    (s.raiseFault .p c).epoch = s.epoch := rfl

@[simp] theorem State.raiseFault_q_build (s : State) (c : FaultCode) :
    (s.raiseFault .q c).build = s.build := rfl
@[simp] theorem State.raiseFault_q_head (s : State) (c : FaultCode) : (s.raiseFault .q c).head = s.head := rfl
@[simp] theorem State.raiseFault_q_tail (s : State) (c : FaultCode) : (s.raiseFault .q c).tail = s.tail := rfl
@[simp] theorem State.raiseFault_q_fifo (s : State) (c : FaultCode) : (s.raiseFault .q c).fifo = s.fifo := rfl
@[simp] theorem State.raiseFault_q_fstate (s : State) (c : FaultCode) :
    (s.raiseFault .q c).fstate = s.fstate := rfl
@[simp] theorem State.raiseFault_q_pos (s : State) (c : FaultCode) : (s.raiseFault .q c).pos = s.pos := rfl
@[simp] theorem State.raiseFault_q_accbuf (s : State) (c : FaultCode) :
    (s.raiseFault .q c).accbuf = s.accbuf := rfl
@[simp] theorem State.raiseFault_q_frame (s : State) (c : FaultCode) :
    (s.raiseFault .q c).frame = s.frame := rfl
@[simp] theorem State.raiseFault_q_frameValid (s : State) (c : FaultCode) :
    (s.raiseFault .q c).frameValid = s.frameValid := rfl
@[simp] theorem State.raiseFault_q_fault (s : State) (c : FaultCode) :
    (s.raiseFault .q c).fault = (if s.fault = 0#4 then faultBits c else s.fault) := rfl
@[simp] theorem State.raiseFault_q_pollInFlight (s : State) (c : FaultCode) :
    (s.raiseFault .q c).pollInFlight = s.pollInFlight := rfl
@[simp] theorem State.raiseFault_q_pResult (s : State) (c : FaultCode) :
    (s.raiseFault .q c).pResult = s.pResult := rfl
@[simp] theorem State.raiseFault_q_qResult (s : State) (c : FaultCode) :
    (s.raiseFault .q c).qResult = some 0#32 := rfl
@[simp] theorem State.raiseFault_q_inputs (s : State) (c : FaultCode) :
    (s.raiseFault .q c).inputs = s.inputs := rfl
@[simp] theorem State.raiseFault_q_epoch (s : State) (c : FaultCode) :
    (s.raiseFault .q c).epoch = s.epoch := rfl

@[simp] theorem State.returned_p_build (s : State) (r : ResultWord) : (s.returned .p r).build = s.build := rfl
@[simp] theorem State.returned_p_head (s : State) (r : ResultWord) : (s.returned .p r).head = s.head := rfl
@[simp] theorem State.returned_p_tail (s : State) (r : ResultWord) : (s.returned .p r).tail = s.tail := rfl
@[simp] theorem State.returned_p_fifo (s : State) (r : ResultWord) : (s.returned .p r).fifo = s.fifo := rfl
@[simp] theorem State.returned_p_fstate (s : State) (r : ResultWord) :
    (s.returned .p r).fstate = s.fstate := rfl
@[simp] theorem State.returned_p_pos (s : State) (r : ResultWord) : (s.returned .p r).pos = s.pos := rfl
@[simp] theorem State.returned_p_accbuf (s : State) (r : ResultWord) :
    (s.returned .p r).accbuf = s.accbuf := rfl
@[simp] theorem State.returned_p_frame (s : State) (r : ResultWord) : (s.returned .p r).frame = s.frame := rfl
@[simp] theorem State.returned_p_frameValid (s : State) (r : ResultWord) :
    (s.returned .p r).frameValid = s.frameValid := rfl
@[simp] theorem State.returned_p_fault (s : State) (r : ResultWord) : (s.returned .p r).fault = s.fault := rfl
@[simp] theorem State.returned_p_pollInFlight (s : State) (r : ResultWord) :
    (s.returned .p r).pollInFlight = s.pollInFlight := rfl
@[simp] theorem State.returned_p_pResult (s : State) (r : ResultWord) :
    (s.returned .p r).pResult = some r := rfl
@[simp] theorem State.returned_p_qResult (s : State) (r : ResultWord) :
    (s.returned .p r).qResult = s.qResult := rfl
@[simp] theorem State.returned_p_inputs (s : State) (r : ResultWord) :
    (s.returned .p r).inputs = s.inputs := rfl
@[simp] theorem State.returned_p_epoch (s : State) (r : ResultWord) : (s.returned .p r).epoch = s.epoch := rfl

@[simp] theorem State.returned_q_build (s : State) (r : ResultWord) : (s.returned .q r).build = s.build := rfl
@[simp] theorem State.returned_q_head (s : State) (r : ResultWord) : (s.returned .q r).head = s.head := rfl
@[simp] theorem State.returned_q_tail (s : State) (r : ResultWord) : (s.returned .q r).tail = s.tail := rfl
@[simp] theorem State.returned_q_fifo (s : State) (r : ResultWord) : (s.returned .q r).fifo = s.fifo := rfl
@[simp] theorem State.returned_q_fstate (s : State) (r : ResultWord) :
    (s.returned .q r).fstate = s.fstate := rfl
@[simp] theorem State.returned_q_pos (s : State) (r : ResultWord) : (s.returned .q r).pos = s.pos := rfl
@[simp] theorem State.returned_q_accbuf (s : State) (r : ResultWord) :
    (s.returned .q r).accbuf = s.accbuf := rfl
@[simp] theorem State.returned_q_frame (s : State) (r : ResultWord) : (s.returned .q r).frame = s.frame := rfl
@[simp] theorem State.returned_q_frameValid (s : State) (r : ResultWord) :
    (s.returned .q r).frameValid = s.frameValid := rfl
@[simp] theorem State.returned_q_fault (s : State) (r : ResultWord) : (s.returned .q r).fault = s.fault := rfl
@[simp] theorem State.returned_q_pollInFlight (s : State) (r : ResultWord) :
    (s.returned .q r).pollInFlight = s.pollInFlight := rfl
@[simp] theorem State.returned_q_pResult (s : State) (r : ResultWord) :
    (s.returned .q r).pResult = s.pResult := rfl
@[simp] theorem State.returned_q_qResult (s : State) (r : ResultWord) :
    (s.returned .q r).qResult = some r := rfl
@[simp] theorem State.returned_q_inputs (s : State) (r : ResultWord) :
    (s.returned .q r).inputs = s.inputs := rfl
@[simp] theorem State.returned_q_epoch (s : State) (r : ResultWord) : (s.returned .q r).epoch = s.epoch := rfl

@[simp] theorem State.arrive_build (s : State) (as : List AgentAction) : (s.arrive as).build = s.build := rfl
@[simp] theorem State.arrive_head (s : State) (as : List AgentAction) : (s.arrive as).head = s.head := rfl
@[simp] theorem State.arrive_tail (s : State) (as : List AgentAction) : (s.arrive as).tail = s.tail := rfl
@[simp] theorem State.arrive_fifo (s : State) (as : List AgentAction) : (s.arrive as).fifo = s.fifo := rfl
@[simp] theorem State.arrive_fstate (s : State) (as : List AgentAction) :
    (s.arrive as).fstate = s.fstate := rfl
@[simp] theorem State.arrive_pos (s : State) (as : List AgentAction) : (s.arrive as).pos = s.pos := rfl
@[simp] theorem State.arrive_accbuf (s : State) (as : List AgentAction) :
    (s.arrive as).accbuf = s.accbuf := rfl
@[simp] theorem State.arrive_frame (s : State) (as : List AgentAction) : (s.arrive as).frame = s.frame := rfl
@[simp] theorem State.arrive_frameValid (s : State) (as : List AgentAction) :
    (s.arrive as).frameValid = s.frameValid := rfl
@[simp] theorem State.arrive_fault (s : State) (as : List AgentAction) : (s.arrive as).fault = s.fault := rfl
@[simp] theorem State.arrive_pollInFlight (s : State) (as : List AgentAction) :
    (s.arrive as).pollInFlight = s.pollInFlight := rfl
@[simp] theorem State.arrive_pResult (s : State) (as : List AgentAction) :
    (s.arrive as).pResult = s.pResult := rfl
@[simp] theorem State.arrive_qResult (s : State) (as : List AgentAction) :
    (s.arrive as).qResult = s.qResult := rfl
@[simp] theorem State.arrive_inputs (s : State) (as : List AgentAction) :
    (s.arrive as).inputs = s.inputs ++ as := rfl
@[simp] theorem State.arrive_epoch (s : State) (as : List AgentAction) : (s.arrive as).epoch = s.epoch := rfl

@[simp] theorem State.placeCommand_build (s : State) (port : Port) (w : CommandWord) :
    (s.placeCommand port w).build = s.build := rfl
@[simp] theorem State.placeCommand_head (s : State) (port : Port) (w : CommandWord) :
    (s.placeCommand port w).head = s.head := rfl
@[simp] theorem State.placeCommand_tail (s : State) (port : Port) (w : CommandWord) :
    (s.placeCommand port w).tail = s.tail := rfl
@[simp] theorem State.placeCommand_fifo (s : State) (port : Port) (w : CommandWord) :
    (s.placeCommand port w).fifo = s.fifo := rfl
@[simp] theorem State.placeCommand_fstate (s : State) (port : Port) (w : CommandWord) :
    (s.placeCommand port w).fstate = s.fstate := rfl
@[simp] theorem State.placeCommand_pos (s : State) (port : Port) (w : CommandWord) :
    (s.placeCommand port w).pos = s.pos := rfl
@[simp] theorem State.placeCommand_accbuf (s : State) (port : Port) (w : CommandWord) :
    (s.placeCommand port w).accbuf = s.accbuf := rfl
@[simp] theorem State.placeCommand_frame (s : State) (port : Port) (w : CommandWord) :
    (s.placeCommand port w).frame = s.frame := rfl
@[simp] theorem State.placeCommand_frameValid (s : State) (port : Port) (w : CommandWord) :
    (s.placeCommand port w).frameValid = s.frameValid := rfl
@[simp] theorem State.placeCommand_fault (s : State) (port : Port) (w : CommandWord) :
    (s.placeCommand port w).fault = s.fault := rfl
@[simp] theorem State.placeCommand_pollInFlight (s : State) (port : Port) (w : CommandWord) :
    (s.placeCommand port w).pollInFlight = (if port = .q then false else s.pollInFlight) := rfl
@[simp] theorem State.placeCommand_pResult (s : State) (port : Port) (w : CommandWord) :
    (s.placeCommand port w).pResult = s.pResult := rfl
@[simp] theorem State.placeCommand_qResult (s : State) (port : Port) (w : CommandWord) :
    (s.placeCommand port w).qResult = s.qResult := rfl
@[simp] theorem State.placeCommand_inputs (s : State) (port : Port) (w : CommandWord) :
    (s.placeCommand port w).inputs = .command port w :: s.inputs := rfl
@[simp] theorem State.placeCommand_epoch (s : State) (port : Port) (w : CommandWord) :
    (s.placeCommand port w).epoch = s.epoch := rfl

@[simp] theorem State.storeAcc_cap (s : State) (i : Nat) (b : Byte) : (s.storeAcc i b).cap = s.cap := rfl
@[simp] theorem State.storeAcc_fifoByte (s : State) (i : Nat) (b : Byte) :
    (s.storeAcc i b).fifoByte = s.fifoByte := rfl
@[simp] theorem State.storeAcc_frameByte (s : State) (i : Nat) (b : Byte) :
    (s.storeAcc i b).frameByte = s.frameByte := rfl
@[simp] theorem State.takeByte_cap (s : State) : (s.takeByte).cap = s.cap := rfl
@[simp] theorem State.takeByte_fifoByte (s : State) : (s.takeByte).fifoByte = s.fifoByte := rfl
@[simp] theorem State.takeByte_accByte (s : State) : (s.takeByte).accByte = s.accByte := rfl
@[simp] theorem State.takeByte_frameByte (s : State) : (s.takeByte).frameByte = s.frameByte := rfl
@[simp] theorem State.setPoll_cap (s : State) (f : Bool) (r : Option ResultWord) :
    (s.setPoll f r).cap = s.cap := rfl
@[simp] theorem State.setPoll_fifoByte (s : State) (f : Bool) (r : Option ResultWord) :
    (s.setPoll f r).fifoByte = s.fifoByte := rfl
@[simp] theorem State.setPoll_accByte (s : State) (f : Bool) (r : Option ResultWord) :
    (s.setPoll f r).accByte = s.accByte := rfl
@[simp] theorem State.setPoll_frameByte (s : State) (f : Bool) (r : Option ResultWord) :
    (s.setPoll f r).frameByte = s.frameByte := rfl
@[simp] theorem State.setPos_cap (s : State) (i : BitVec 5) : (s.setPos i).cap = s.cap := rfl
@[simp] theorem State.setPos_fifoByte (s : State) (i : BitVec 5) : (s.setPos i).fifoByte = s.fifoByte := rfl
@[simp] theorem State.setPos_accByte (s : State) (i : BitVec 5) : (s.setPos i).accByte = s.accByte := rfl
@[simp] theorem State.setPos_frameByte (s : State) (i : BitVec 5) :
    (s.setPos i).frameByte = s.frameByte := rfl
@[simp] theorem State.setFstate_cap (s : State) (f : FramerState) : (s.setFstate f).cap = s.cap := rfl
@[simp] theorem State.setFstate_fifoByte (s : State) (f : FramerState) :
    (s.setFstate f).fifoByte = s.fifoByte := rfl
@[simp] theorem State.setFstate_accByte (s : State) (f : FramerState) :
    (s.setFstate f).accByte = s.accByte := rfl
@[simp] theorem State.setFstate_frameByte (s : State) (f : FramerState) :
    (s.setFstate f).frameByte = s.frameByte := rfl
@[simp] theorem State.reject_cap (s : State) : (s.reject).cap = s.cap := rfl
@[simp] theorem State.reject_fifoByte (s : State) : (s.reject).fifoByte = s.fifoByte := rfl
@[simp] theorem State.reject_accByte (s : State) : (s.reject).accByte = s.accByte := rfl
@[simp] theorem State.reject_frameByte (s : State) : (s.reject).frameByte = s.frameByte := rfl
@[simp] theorem State.emit_cap (s : State) : (s.emit).cap = s.cap := rfl
@[simp] theorem State.emit_fifoByte (s : State) : (s.emit).fifoByte = s.fifoByte := rfl
@[simp] theorem State.emit_accByte (s : State) : (s.emit).accByte = s.accByte := rfl
@[simp] theorem State.hostReset_cap (s : State) : (s.hostReset).cap = s.cap := rfl
@[simp] theorem State.beginPoll_cap (s : State) : (s.beginPoll).cap = s.cap := rfl
@[simp] theorem State.beginPoll_fifoByte (s : State) : (s.beginPoll).fifoByte = s.fifoByte := rfl
@[simp] theorem State.beginPoll_accByte (s : State) : (s.beginPoll).accByte = s.accByte := rfl
@[simp] theorem State.beginPoll_frameByte (s : State) : (s.beginPoll).frameByte = s.frameByte := rfl
@[simp] theorem State.endPoll_cap (s : State) (r : ResultWord) : (s.endPoll r).cap = s.cap := rfl
@[simp] theorem State.endPoll_fifoByte (s : State) (r : ResultWord) :
    (s.endPoll r).fifoByte = s.fifoByte := rfl
@[simp] theorem State.endPoll_accByte (s : State) (r : ResultWord) : (s.endPoll r).accByte = s.accByte := rfl
@[simp] theorem State.endPoll_frameByte (s : State) (r : ResultWord) :
    (s.endPoll r).frameByte = s.frameByte := rfl
@[simp] theorem State.raiseFault_p_cap (s : State) (c : FaultCode) : (s.raiseFault .p c).cap = s.cap := rfl
@[simp] theorem State.raiseFault_p_fifoByte (s : State) (c : FaultCode) :
    (s.raiseFault .p c).fifoByte = s.fifoByte := rfl
@[simp] theorem State.raiseFault_p_accByte (s : State) (c : FaultCode) :
    (s.raiseFault .p c).accByte = s.accByte := rfl
@[simp] theorem State.raiseFault_p_frameByte (s : State) (c : FaultCode) :
    (s.raiseFault .p c).frameByte = s.frameByte := rfl
@[simp] theorem State.raiseFault_q_cap (s : State) (c : FaultCode) : (s.raiseFault .q c).cap = s.cap := rfl
@[simp] theorem State.raiseFault_q_fifoByte (s : State) (c : FaultCode) :
    (s.raiseFault .q c).fifoByte = s.fifoByte := rfl
@[simp] theorem State.raiseFault_q_accByte (s : State) (c : FaultCode) :
    (s.raiseFault .q c).accByte = s.accByte := rfl
@[simp] theorem State.raiseFault_q_frameByte (s : State) (c : FaultCode) :
    (s.raiseFault .q c).frameByte = s.frameByte := rfl
@[simp] theorem State.returned_p_cap (s : State) (r : ResultWord) : (s.returned .p r).cap = s.cap := rfl
@[simp] theorem State.returned_p_fifoByte (s : State) (r : ResultWord) :
    (s.returned .p r).fifoByte = s.fifoByte := rfl
@[simp] theorem State.returned_p_accByte (s : State) (r : ResultWord) :
    (s.returned .p r).accByte = s.accByte := rfl
@[simp] theorem State.returned_p_frameByte (s : State) (r : ResultWord) :
    (s.returned .p r).frameByte = s.frameByte := rfl
@[simp] theorem State.returned_q_cap (s : State) (r : ResultWord) : (s.returned .q r).cap = s.cap := rfl
@[simp] theorem State.returned_q_fifoByte (s : State) (r : ResultWord) :
    (s.returned .q r).fifoByte = s.fifoByte := rfl
@[simp] theorem State.returned_q_accByte (s : State) (r : ResultWord) :
    (s.returned .q r).accByte = s.accByte := rfl
@[simp] theorem State.returned_q_frameByte (s : State) (r : ResultWord) :
    (s.returned .q r).frameByte = s.frameByte := rfl
@[simp] theorem State.arrive_cap (s : State) (as : List AgentAction) : (s.arrive as).cap = s.cap := rfl
@[simp] theorem State.arrive_fifoByte (s : State) (as : List AgentAction) :
    (s.arrive as).fifoByte = s.fifoByte := rfl
@[simp] theorem State.arrive_accByte (s : State) (as : List AgentAction) :
    (s.arrive as).accByte = s.accByte := rfl
@[simp] theorem State.arrive_frameByte (s : State) (as : List AgentAction) :
    (s.arrive as).frameByte = s.frameByte := rfl
@[simp] theorem State.placeCommand_cap (s : State) (port : Port) (w : CommandWord) :
    (s.placeCommand port w).cap = s.cap := rfl
@[simp] theorem State.placeCommand_fifoByte (s : State) (port : Port) (w : CommandWord) :
    (s.placeCommand port w).fifoByte = s.fifoByte := rfl
@[simp] theorem State.placeCommand_accByte (s : State) (port : Port) (w : CommandWord) :
    (s.placeCommand port w).accByte = s.accByte := rfl
@[simp] theorem State.placeCommand_frameByte (s : State) (port : Port) (w : CommandWord) :
    (s.placeCommand port w).frameByte = s.frameByte := rfl

end Sys2Proof.Machine
end

