-- ==== Sys2Proof/Laws/Ops.lean ====
section
/-!
SUPPORT. One lemma for each shared operation: what it answers, and what it can do. The provers cite these instead
of unfolding the operations.
-/
namespace Sys2Proof.Machine

theorem State.two_le_cap (s : State) : 2 ≤ s.cap := s.build.two_le_cap

theorem State.cap_le_256 (s : State) : s.cap ≤ 256 := s.build.cap_le_256

theorem State.cap_pos (s : State) : 0 < s.cap := by have := s.two_le_cap; omega

/-- Index arithmetic never leaves the eight bits of an index (R106). -/
@[simp] theorem State.toNat_advance (s : State) (i : BitVec 8) :
    (s.advance i).toNat = (i.toNat + 1) % s.cap := by
  have h1 := Nat.mod_lt (i.toNat + 1) s.cap_pos
  have h2 := s.cap_le_256
  simp only [State.advance, BitVec.toNat_ofNat]
  exact Nat.mod_eq_of_lt (by omega)

theorem State.advance_lt (s : State) (i : BitVec 8) : (s.advance i).toNat < s.cap := by
  rw [State.toNat_advance]; exact Nat.mod_lt _ s.cap_pos

theorem State.isEmpty_iff (s : State) : s.isEmpty = true ↔ s.head = s.tail := by
  simp [State.isEmpty]

theorem State.isFull_iff (s : State) :
    s.isFull = true ↔ (s.head.toNat + 1) % s.cap = s.tail.toNat := by
  rw [State.isFull, beq_iff_eq, ← State.toNat_advance, BitVec.toNat_inj]

theorem State.readSlot_of_lt (s : State) {i : Nat} (h : i < s.cap) :
    s.readSlot i = .ok (s.fifoByte i) := if_pos h

theorem State.writeSlot_of_lt (s : State) {i : Nat} (b : Byte) (h : i < s.cap) :
    s.writeSlot i b = .ok { s with fifo := s.fifo.write i b } := if_pos h

/-- A slot read answers only for a slot that exists. -/
theorem State.readSlot_ok {s : State} {i : Nat} {b : Byte} (h : s.readSlot i = .ok b) :
    i < s.cap ∧ b = s.fifoByte i := by
  unfold State.readSlot at h
  split at h
  · exact ⟨‹_›, by cases h; rfl⟩
  · cases h

/-- A slot write answers only for a slot that exists. -/
theorem State.writeSlot_ok {s t : State} {i : Nat} {b : Byte} (h : s.writeSlot i b = .ok t) :
    i < s.cap ∧ t = { s with fifo := s.fifo.write i b } := by
  unfold State.writeSlot at h
  split at h
  · exact ⟨‹_›, by cases h; rfl⟩
  · cases h

/-- FIFO bytes after a slot write. -/
theorem State.fifoByte_write {s t : State} {i : Nat} {b : Byte}
    (hf : t.fifo = s.fifo.write i b) (he : t.epoch = s.epoch) (j : Nat) :
    t.fifoByte j = if j = i then b else s.fifoByte j := by
  simp only [State.fifoByte, hf, he, Memory.read?_write]
  split <;> rfl

/-- `ACCBUF` after a store. -/
@[simp] theorem State.accByte_storeAcc (s : State) (i j : Nat) (b : Byte) :
    (s.storeAcc i b).accByte j = if j = i then b else s.accByte j := by
  simp only [State.accByte, State.storeAcc, Memory.read?_write]
  split <;> rfl

/-- An emit makes `FRAME` the 32 bytes of `ACCBUF` (R124). -/
theorem State.frameByte_emit (s : State) {i : Nat} (h : i < 32) : s.emit.frameByte i = s.accByte i := by
  simp [State.frameByte, Memory.read?_ofBytes, h]

/-- The scan as it runs and as R123 states it. -/
theorem embeddedHeader_iff (a : Nat → Byte) : embeddedHeader a = true ↔ HasEmbeddedHeader a := by
  simp only [embeddedHeader, List.any_eq_true, List.mem_range'_1, Bool.and_eq_true, beq_iff_eq,
    HasEmbeddedHeader, and_assoc, Config.scanFirst, Config.scanLast]
  constructor
  · rintro ⟨i, h1, h2, h3⟩; exact ⟨i, h1, by omega, h3⟩
  · rintro ⟨i, h1, h2, h3⟩; exact ⟨i, h1, by omega, h3⟩

/-- The scan reads bytes 2 to 31 only. -/
theorem HasEmbeddedHeader_congr {a a' : Nat → Byte} (h : ∀ i < 32, a i = a' i) :
    HasEmbeddedHeader a ↔ HasEmbeddedHeader a' := by
  constructor
  · rintro ⟨i, h1, h2, h3, h4⟩
    exact ⟨i, h1, h2, (h i (by omega)).symm.trans h3, (h (i + 1) (by omega)).symm.trans h4⟩
  · rintro ⟨i, h1, h2, h3, h4⟩
    exact ⟨i, h1, h2, (h i (by omega)).trans h3, (h (i + 1) (by omega)).trans h4⟩

theorem State.framerConsume_seeking {s : State} (h : s.fstate = .seekingHeader) (b : Byte) :
    s.framerConsume b = (s.seekHeader b, .consumed) := by
  unfold State.framerConsume; rw [h]

theorem State.framerConsume_accumulating {s : State} (h : s.fstate = .accumulating) (b : Byte) :
    s.framerConsume b = s.accumulate b := by
  unfold State.framerConsume; rw [h]

/-- The whole candidate, once its last byte is stored (R122). -/
theorem State.accByte_storeAcc_last (s : State) (b : Byte) : (s.storeAcc 31 b).accByte = s.candidate b := by
  funext i; rw [State.accByte_storeAcc]; rfl

/-- Everything the framer can do with one byte (R121 to R125): discard it, store a header byte, store a body
byte, reject the candidate, or emit it. -/
theorem State.framerConsume_cases (s : State) (b : Byte) :
    (s.fstate = .seekingHeader ∧ s.framerConsume b = (s.setPos 0#5, .consumed)) ∨
    (s.fstate = .seekingHeader ∧ b = Config.hdr0 ∧
      s.framerConsume b = ((s.storeAcc 0 b).setPos 1#5, .consumed)) ∨
    (s.fstate = .seekingHeader ∧ s.pos ≠ 0#5 ∧ b = Config.hdr1 ∧
      s.framerConsume b = (((s.storeAcc 1 b).setPos 2#5).setFstate .accumulating, .consumed)) ∨
    (s.fstate = .accumulating ∧ s.pos.toNat + 1 < 32 ∧
      s.framerConsume b = ((s.storeAcc s.pos.toNat b).setPos (s.pos + 1#5), .consumed)) ∨
    (s.fstate = .accumulating ∧ s.pos.toNat = 31 ∧ HasEmbeddedHeader (s.candidate b) ∧
      s.framerConsume b = ((s.storeAcc 31 b).reject, .consumed)) ∨
    (s.fstate = .accumulating ∧ s.pos.toNat = 31 ∧ ¬ HasEmbeddedHeader (s.candidate b) ∧
      s.framerConsume b = ((s.storeAcc 31 b).emit, .frame)) := by
  cases hf : s.fstate with
  | seekingHeader =>
    have hc := State.framerConsume_seeking hf b
    rw [hc]
    unfold State.seekHeader
    by_cases hp : s.pos = 0#5
    · by_cases hb : b = Config.hdr0
      · rw [if_pos hp, if_pos hb]; exact .inr (.inl ⟨rfl, hb, rfl⟩)
      · rw [if_pos hp, if_neg hb]; exact .inl ⟨rfl, rfl⟩
    · rw [if_neg hp]
      by_cases h1 : b = Config.hdr1
      · rw [if_pos h1]; exact .inr (.inr (.inl ⟨rfl, hp, h1, rfl⟩))
      · rw [if_neg h1]
        by_cases hb : b = Config.hdr0
        · rw [if_pos hb]; exact .inr (.inl ⟨rfl, hb, rfl⟩)
        · rw [if_neg hb]; exact .inl ⟨rfl, rfl⟩
  | accumulating =>
    rw [State.framerConsume_accumulating hf b]
    unfold State.accumulate
    have hlt := s.pos.isLt
    by_cases hp : s.pos.toNat + 1 < 32
    · rw [if_pos hp]; exact .inr (.inr (.inr (.inl ⟨rfl, hp, rfl⟩)))
    · have hpos : s.pos.toNat = 31 := by omega
      rw [if_neg hp, hpos, State.accByte_storeAcc_last]
      by_cases he : HasEmbeddedHeader (s.candidate b)
      · rw [if_pos ((embeddedHeader_iff _).2 he)]
        exact .inr (.inr (.inr (.inr (.inl ⟨rfl, rfl, he, rfl⟩))))
      · rw [if_neg (fun h => he ((embeddedHeader_iff _).1 h))]
        exact .inr (.inr (.inr (.inr (.inr ⟨rfl, rfl, he, rfl⟩))))

/-- What the framer leaves alone: everything but its own state and the frame register. -/
theorem State.framerConsume_frame (s : State) (b : Byte) :
    (s.framerConsume b).1 = { s with
      fstate := (s.framerConsume b).1.fstate
      pos := (s.framerConsume b).1.pos
      accbuf := (s.framerConsume b).1.accbuf
      frame := (s.framerConsume b).1.frame
      frameValid := (s.framerConsume b).1.frameValid } := by
  rcases s.framerConsume_cases b with ⟨_, h⟩ | ⟨_, _, h⟩ | ⟨_, _, _, h⟩ | ⟨_, _, h⟩ | ⟨_, _, _, h⟩ |
    ⟨_, _, _, h⟩ <;> rw [h] <;> rfl

@[simp] theorem State.framerConsume_build (s : State) (b : Byte) :
    (s.framerConsume b).1.build = s.build := by rw [State.framerConsume_frame]

@[simp] theorem State.framerConsume_head (s : State) (b : Byte) :
    (s.framerConsume b).1.head = s.head := by rw [State.framerConsume_frame]

@[simp] theorem State.framerConsume_tail (s : State) (b : Byte) :
    (s.framerConsume b).1.tail = s.tail := by rw [State.framerConsume_frame]

@[simp] theorem State.framerConsume_fifo (s : State) (b : Byte) :
    (s.framerConsume b).1.fifo = s.fifo := by rw [State.framerConsume_frame]

@[simp] theorem State.framerConsume_fault (s : State) (b : Byte) :
    (s.framerConsume b).1.fault = s.fault := by rw [State.framerConsume_frame]

@[simp] theorem State.framerConsume_pollInFlight (s : State) (b : Byte) :
    (s.framerConsume b).1.pollInFlight = s.pollInFlight := by rw [State.framerConsume_frame]

@[simp] theorem State.framerConsume_pResult (s : State) (b : Byte) :
    (s.framerConsume b).1.pResult = s.pResult := by rw [State.framerConsume_frame]

@[simp] theorem State.framerConsume_qResult (s : State) (b : Byte) :
    (s.framerConsume b).1.qResult = s.qResult := by rw [State.framerConsume_frame]

@[simp] theorem State.framerConsume_inputs (s : State) (b : Byte) :
    (s.framerConsume b).1.inputs = s.inputs := by rw [State.framerConsume_frame]

@[simp] theorem State.framerConsume_epoch (s : State) (b : Byte) :
    (s.framerConsume b).1.epoch = s.epoch := by rw [State.framerConsume_frame]

/-- The outcome that a micro-step has when its byte has outcome `r`. -/
@[simp] theorem ConsumeResult.outcome_ne_empty (r : ConsumeResult) : r.outcome ≠ .empty := by
  cases r <;> simp [ConsumeResult.outcome]

/-- A micro-step answers in two ways (R126): the FIFO is empty and nothing changes, or the byte of slot `TAIL` is
consumed. -/
theorem State.microStep_ok {s t : State} {o : StepOutcome} (h : s.microStep = .ok (t, o)) :
    (s.head = s.tail ∧ t = s ∧ o = .empty) ∨
    (∃ b, s.HasByte b ∧
      t = (s.takeByte.framerConsume b).1 ∧
      o = (s.takeByte.framerConsume b).2.outcome) := by
  unfold State.microStep at h
  split at h
  · rename_i he
    cases h
    exact .inl ⟨s.isEmpty_iff.1 he, rfl, rfl⟩
  · rename_i he
    split at h
    · cases h
    · rename_i b hb
      cases h
      obtain ⟨hlt, hb⟩ := State.readSlot_ok hb
      exact .inr ⟨b, ⟨fun e => he (s.isEmpty_iff.2 e), hlt, hb.symm⟩, rfl, rfl⟩

theorem State.microStep_of_empty {s : State} (h : s.head = s.tail) : s.microStep = .ok (s, .empty) :=
  if_pos (s.isEmpty_iff.2 h)

theorem State.microStep_of_hasByte {s : State} {b : Byte} (h : s.HasByte b) :
    s.microStep = .ok ((s.takeByte.framerConsume b).1,
      (s.takeByte.framerConsume b).2.outcome) := by
  obtain ⟨hne, hlt, rfl⟩ := h
  unfold State.microStep
  rw [if_neg (fun e => hne (s.isEmpty_iff.1 e)), s.readSlot_of_lt hlt]

/-- The framer never reads whether a poll is in flight, nor a result: it does the same whatever they are. -/
theorem State.framerConsume_setPoll (s : State) (b : Byte) (p : Bool) (q : Option ResultWord) :
    (s.setPoll p q).framerConsume b =
      ((s.framerConsume b).1.setPoll p q, (s.framerConsume b).2) := by
  rcases (show s.fstate = .seekingHeader ∨ s.fstate = .accumulating by cases s.fstate <;> simp) with
    hf | hf
  · rw [State.framerConsume_seeking hf, State.framerConsume_seeking (s := s.setPoll p q) hf]
    unfold State.seekHeader
    rw [State.setPoll_pos]
    split_ifs <;> rfl
  · rw [State.framerConsume_accumulating hf, State.framerConsume_accumulating (s := s.setPoll p q) hf]
    unfold State.accumulate
    rw [State.setPoll_pos]
    have ha : ((s.setPoll p q).storeAcc s.pos.toNat b).accByte = (s.storeAcc s.pos.toNat b).accByte := rfl
    simp only [ha]
    split_ifs <;> rfl

/-- Nor does a micro-step. -/
theorem State.microStep_setPoll {s u : State} {o : StepOutcome} (h : s.microStep = .ok (u, o))
    (p : Bool) (q : Option ResultWord) :
    (s.setPoll p q).microStep = .ok (u.setPoll p q, o) := by
  rcases State.microStep_ok h with ⟨he, rfl, rfl⟩ | ⟨b, hb, rfl, rfl⟩
  · exact State.microStep_of_empty (s := u.setPoll p q) he
  · rw [State.microStep_of_hasByte (s := s.setPoll p q) hb,
      show (s.setPoll p q).takeByte = s.takeByte.setPoll p q from rfl, State.framerConsume_setPoll]

/-- A micro-step stops only on a slot that does not exist. -/
theorem State.microStep_ok_of_lt {s : State} (h : s.head = s.tail ∨ s.tail.toNat < s.cap) :
    ∃ t o, s.microStep = .ok (t, o) := by
  by_cases he : s.head = s.tail
  · exact ⟨s, .empty, State.microStep_of_empty he⟩
  · exact ⟨_, _, State.microStep_of_hasByte ⟨he, h.resolve_left he, rfl⟩⟩

/-- A poll's micro-step answers a next state exactly when the micro-step does (R127). -/
theorem State.pollStep_next {s t : State} (h : s.pollStep = .next t) :
    ∃ u o, s.microStep = .ok (u, o) ∧ t = u.afterMicroStep o := by
  unfold State.pollStep at h
  split at h
  · cases h
  · rename_i u o hu
    cases h
    exact ⟨u, o, hu, rfl⟩

theorem State.pollStep_of_ok {s u : State} {o : StepOutcome} (h : s.microStep = .ok (u, o)) :
    s.pollStep = .next (u.afterMicroStep o) := by
  unfold State.pollStep; rw [h]

/-! What each operation answers. -/

theorem execRxPush_next {s t : State} {b : Byte} (h : execRxPush b s = .next t) :
    (s.isFull = true ∧ t = s.returned .p 0#32) ∨
    (s.isFull = false ∧ s.head.toNat < s.cap ∧
      t = { s with
        fifo := s.fifo.write s.head.toNat b
        head := s.advance s.head
        pResult := some 1#32 }) := by
  unfold execRxPush at h
  split at h
  · cases h; exact .inl ⟨‹_›, rfl⟩
  · rename_i hf
    split at h
    · cases h
    · rename_i u hu
      obtain ⟨hlt, rfl⟩ := State.writeSlot_ok hu
      cases h
      exact .inr ⟨by simpa using hf, hlt, rfl⟩

theorem execFifoPop_next {s t : State} (h : execFifoPop s = .next t) :
    (s.head = s.tail ∧ t = s.raiseFault .q .popEmpty) ∨
    (s.head ≠ s.tail ∧ s.tail.toNat < s.cap ∧
      t = { s with
        tail := s.advance s.tail
        qResult := some (zext32 (s.fifoByte s.tail.toNat)) }) := by
  unfold execFifoPop at h
  split at h
  · cases h; exact .inl ⟨s.isEmpty_iff.1 ‹_›, rfl⟩
  · rename_i he
    split at h
    · cases h
    · rename_i b hb
      obtain ⟨hlt, rfl⟩ := State.readSlot_ok hb
      cases h
      exact .inr ⟨fun e => he (s.isEmpty_iff.2 e), hlt, rfl⟩

theorem execFramerStep_next {s t : State} (h : execFramerStep s = .next t) :
    ∃ u o, s.microStep = .ok (u, o) ∧ t = u.returned .q o.code := by
  unfold execFramerStep at h
  split at h
  · cases h
  · rename_i u o hu
    cases h
    exact ⟨u, o, hu, rfl⟩

theorem execFramerStep_of_ok {s u : State} {o : StepOutcome} (h : s.microStep = .ok (u, o)) :
    execFramerStep s = .next (u.returned .q o.code) := by
  unfold execFramerStep; rw [h]

/-- Everything a step can do (R59): take the next micro-step of a poll in flight, let the consumer's turn or the
whole step pass, issue a command, or reset. -/
theorem step_cases {s t : State} (h : step s = .next t) :
    (s.inputs = [] ∧ s.pollInFlight = false ∧ t = s) ∨
    (s.inputs = [] ∧ s.pollInFlight = true ∧ s.pollStep = .next t) ∨
    (∃ w rest, s.inputs = .command .q w :: rest ∧ s.pollInFlight = true ∧ s.pollStep = .next t) ∨
    (∃ rest, s.inputs = .pollTurn :: rest ∧ s.pollInFlight = false ∧ t = { s with inputs := rest }) ∨
    (∃ rest, s.inputs = .pollTurn :: rest ∧ s.pollInFlight = true ∧
      { s with inputs := rest }.pollStep = .next t) ∨
    (∃ port w rest code, s.inputs = .command port w :: rest ∧ s.busy port = false ∧
      decode port w = .error code ∧ t = { s with inputs := rest }.raiseFault port code) ∨
    (∃ port w rest i, s.inputs = .command port w :: rest ∧ s.busy port = false ∧
      decode port w = .ok i ∧ exec i { s with inputs := rest } = .next t) ∨
    (∃ rest, s.inputs = .reset :: rest ∧ t = { s with inputs := rest }.hostReset) := by
  unfold step State.agentStep at h
  cases hin : s.inputs with
  | nil =>
    rw [hin] at h
    simp only [State.pollTurn] at h
    cases hp : s.pollInFlight <;> simp only [hp, if_true, Bool.false_eq_true, if_false] at h
    · cases h; exact .inl ⟨rfl, rfl, rfl⟩
    · exact .inr (.inl ⟨rfl, rfl, h⟩)
  | cons a rest =>
    rw [hin] at h
    cases a with
    | command port w =>
      cases hb : s.busy port <;> simp only [hb, if_true, Bool.false_eq_true, if_false] at h
      · unfold State.issue at h
        split at h
        · rename_i code hd
          cases h
          exact .inr (.inr (.inr (.inr (.inr (.inl ⟨port, w, rest, code, rfl, hb, hd, rfl⟩)))))
        · rename_i i hd
          exact .inr (.inr (.inr (.inr (.inr (.inr (.inl ⟨port, w, rest, i, rfl, hb, hd, h⟩))))))
      · cases port with
        | p => cases hb
        | q => exact .inr (.inr (.inl ⟨w, rest, rfl, hb, h⟩))
    | pollTurn =>
      simp only [State.pollTurn] at h
      cases hp : s.pollInFlight <;> simp only [hp, if_true, Bool.false_eq_true, if_false] at h
      · cases h; exact .inr (.inr (.inr (.inl ⟨rest, rfl, rfl, by rw [← hp]⟩)))
      · refine .inr (.inr (.inr (.inr (.inl ⟨rest, rfl, rfl, ?_⟩))))
        rw [← h, ← hp]
    | reset =>
      cases h
      exact .inr (.inr (.inr (.inr (.inr (.inr (.inr ⟨rest, rfl, rfl⟩))))))

end Sys2Proof.Machine
end

