-- ==== Sys2Proof/Laws/PerInstr.lean ====
section
/-!
SUPPORT. Families of statements made once for each operation. `EncodingMatchesRow`: the word of an operation, with
any operand its encoding admits, is selected by the row of that operation in the opcode map (30_encoding.md R73).
-/
namespace Sys2Proof.Laws

/-- The operation's word is selected by its own row, which is a row of the map, on its own port (R73). -/
def EncodingMatchesRow.Statement (i : Instr) : Prop :=
  i.row ∈ opcodeTable ∧ i.row.port = i.port ∧ i.row.selects (encode i) = true

/-- A row that fixes `OP` and `RSV` and leaves `IMM8` free. -/
theorem selects_free (port : Port) (op : BitVec 4) (imm : BitVec 8) :
    OpcodeRow.selects ⟨port, commandWord op 0#4 0#8, commandWord 0xF#4 0xF#4 0#8⟩ (commandWord op 0#4 imm) =
      true := by
  rw [OpcodeRow.selects, beq_iff_eq, commandWord_and, commandWord_inj]
  refine ⟨?_, ?_, ?_⟩
  · exact (show (0xF#4 : BitVec 4) = BitVec.allOnes 4 from rfl) ▸ BitVec.and_allOnes
  · rfl
  · exact BitVec.and_zero

theorem EncodingMatchesRow.rxPush (b : Byte) : EncodingMatchesRow.Statement (.rxPush b) :=
  ⟨by simp [Instr.row, opcodeTable], rfl, selects_free .p 0x1#4 b⟩

theorem EncodingMatchesRow.fifoAvail : EncodingMatchesRow.Statement .fifoAvail :=
  ⟨by decide, rfl, by decide⟩

theorem EncodingMatchesRow.fifoPop : EncodingMatchesRow.Statement .fifoPop :=
  ⟨by decide, rfl, by decide⟩

theorem EncodingMatchesRow.framerStep : EncodingMatchesRow.Statement .framerStep :=
  ⟨by decide, rfl, by decide⟩

theorem EncodingMatchesRow.framerPoll : EncodingMatchesRow.Statement .framerPoll :=
  ⟨by decide, rfl, by decide⟩

theorem EncodingMatchesRow.frameRead (i : BitVec 5) : EncodingMatchesRow.Statement (.frameRead i) :=
  ⟨by simp [Instr.row, opcodeTable], rfl, by revert i; decide⟩

theorem EncodingMatchesRow.chanDecode (ch : BitVec 8) : EncodingMatchesRow.Statement (.chanDecode ch) :=
  ⟨by simp [Instr.row, opcodeTable], rfl, selects_free .q 0x7#4 ch⟩

theorem EncodingMatchesRow.statusRead : EncodingMatchesRow.Statement .statusRead :=
  ⟨by decide, rfl, by decide⟩

end Sys2Proof.Laws
end

