-- ==== Sys2Proof/Laws/Queue.lean ====
section
/-!
SUPPORT. The ring buffer as a queue (10_state.md R26, R27): how `COUNT` and the bytes held change when `HEAD` or `TAIL`
advances.
-/
namespace Sys2Proof.Machine

/-- `COUNT` without the remainder (R26). -/
theorem State.count_eq (s : State) (hh : s.head.toNat < s.cap) (ht : s.tail.toNat < s.cap) :
    s.count = if s.tail.toNat ≤ s.head.toNat then s.head.toNat - s.tail.toNat
      else s.head.toNat + s.cap - s.tail.toNat := by
  unfold State.count
  split
  · rw [show s.head.toNat + s.cap - s.tail.toNat = s.head.toNat - s.tail.toNat + s.cap by omega,
      Nat.add_mod_right, Nat.mod_eq_of_lt (by omega)]
  · exact Nat.mod_eq_of_lt (by omega)

theorem State.count_lt (s : State) : s.count < s.cap := Nat.mod_lt _ s.cap_pos

/-- A remainder by `CAP` of a number below `2 * CAP`. -/
theorem mod_cap_eq (n c : Nat) (h : n < 2 * c) : n % c = if n < c then n else n - c := by
  split
  · exact Nat.mod_eq_of_lt ‹_›
  · rw [Nat.mod_eq_sub_mod (by omega), Nat.mod_eq_of_lt (by omega)]

theorem State.count_eq_zero_iff (s : State) (hh : s.head.toNat < s.cap) (ht : s.tail.toNat < s.cap) :
    s.count = 0 ↔ s.head = s.tail := by
  rw [s.count_eq hh ht, ← BitVec.toNat_inj]
  split <;> omega

theorem State.isFull_iff_count (s : State) (hh : s.head.toNat < s.cap) (ht : s.tail.toNat < s.cap) :
    s.isFull = true ↔ s.count = s.cap - 1 := by
  rw [s.isFull_iff, s.count_eq hh ht, mod_cap_eq _ _ (by omega)]
  split <;> split <;> omega

/-- The slot after the last byte held is `HEAD`. -/
theorem State.slot_count (s : State) (hh : s.head.toNat < s.cap) (ht : s.tail.toNat < s.cap) :
    (s.tail.toNat + s.count) % s.cap = s.head.toNat := by
  rw [s.count_eq hh ht]
  split
  · rw [mod_cap_eq _ _ (by omega)]; split <;> omega
  · rw [mod_cap_eq _ _ (by omega)]; split <;> omega

/-- No byte held is in slot `HEAD`. -/
theorem State.slot_ne_head (s : State) (hh : s.head.toNat < s.cap) (ht : s.tail.toNat < s.cap) {k : Nat}
    (hk : k < s.count) : (s.tail.toNat + k) % s.cap ≠ s.head.toNat := by
  have hlt := s.count_lt
  rw [s.count_eq hh ht] at hk hlt
  rw [mod_cap_eq _ _ (by split at hk <;> omega)]
  split at hk <;> split <;> omega

/-- An accepted push makes `COUNT` one more. -/
theorem State.count_push {s t : State} (hh : s.head.toNat < s.cap) (ht : s.tail.toNat < s.cap)
    (hnf : (s.head.toNat + 1) % s.cap ≠ s.tail.toNat) (hb : t.build = s.build)
    (htail : t.tail = s.tail) (hhead : t.head = s.advance s.head) : t.count = s.count + 1 := by
  have hc : t.cap = s.cap := by unfold State.cap; rw [hb]
  have hth : t.head.toNat = (s.head.toNat + 1) % s.cap := by rw [hhead, s.toNat_advance]
  have hlt := Nat.mod_lt (s.head.toNat + 1) s.cap_pos
  rw [t.count_eq (by omega) (by rw [htail, hc]; exact ht), s.count_eq hh ht, hth, htail, hc]
  rw [mod_cap_eq _ _ (by omega)] at hnf ⊢
  by_cases h1 : s.head.toNat + 1 < s.cap <;> by_cases h2 : s.tail.toNat ≤ s.head.toNat <;>
    simp only [h1, h2, if_true, if_false] at hnf ⊢ <;> split <;> omega

/-- Consuming a byte makes `COUNT` one less. -/
theorem State.count_consume {s t : State} (hh : s.head.toNat < s.cap) (ht : s.tail.toNat < s.cap)
    (hne : s.head ≠ s.tail) (hb : t.build = s.build)
    (htail : t.tail = s.advance s.tail) (hhead : t.head = s.head) : s.count = t.count + 1 := by
  have hc : t.cap = s.cap := by unfold State.cap; rw [hb]
  have htt : t.tail.toNat = (s.tail.toNat + 1) % s.cap := by rw [htail, s.toNat_advance]
  have hlt := Nat.mod_lt (s.tail.toNat + 1) s.cap_pos
  rw [Ne, ← BitVec.toNat_inj] at hne
  rw [t.count_eq (by rw [hhead, hc]; exact hh) (by omega), s.count_eq hh ht, htt, hhead, hc]
  rw [mod_cap_eq _ _ (by omega)]
  split <;> split <;> split <;> omega

@[simp] theorem State.length_contents (s : State) : s.contents.length = s.count := by
  simp [State.contents]

/-- The bytes held depend on the indices and the FIFO only. -/
theorem State.contents_congr {s t : State} (hb : t.build = s.build) (hhead : t.head = s.head)
    (htail : t.tail = s.tail) (hf : ∀ k < s.count,
      t.fifoByte ((s.tail.toNat + k) % s.cap) = s.fifoByte ((s.tail.toNat + k) % s.cap)) :
    t.contents = s.contents := by
  have hc : t.cap = s.cap := by unfold State.cap; rw [hb]
  have hn : t.count = s.count := by unfold State.count; rw [hc, hhead, htail]
  unfold State.contents
  rw [hn, htail, hc]
  refine List.map_congr_left fun k hk => hf k (List.mem_range.1 hk)

/-- An accepted push appends its byte. -/
theorem State.contents_push {s t : State} {b : Byte} (hh : s.head.toNat < s.cap)
    (ht : s.tail.toNat < s.cap) (hnf : (s.head.toNat + 1) % s.cap ≠ s.tail.toNat)
    (hb : t.build = s.build) (htail : t.tail = s.tail) (hhead : t.head = s.advance s.head)
    (hf : t.fifo = s.fifo.write s.head.toNat b) (he : t.epoch = s.epoch) :
    t.contents = s.contents ++ [b] := by
  have hc : t.cap = s.cap := by unfold State.cap; rw [hb]
  unfold State.contents
  rw [State.count_push hh ht hnf hb htail hhead, List.range_succ, List.map_append, htail, hc]
  congr 1
  · refine List.map_congr_left fun k hk => ?_
    rw [State.fifoByte_write hf he, if_neg (s.slot_ne_head hh ht (List.mem_range.1 hk))]
  · simp only [List.map_cons, List.map_nil]
    rw [s.slot_count hh ht, State.fifoByte_write hf he, if_pos rfl]

/-- Consuming takes the byte of slot `TAIL` off the front. -/
theorem State.contents_consume {s t : State} (hh : s.head.toNat < s.cap)
    (ht : s.tail.toNat < s.cap) (hne : s.head ≠ s.tail)
    (hb : t.build = s.build) (htail : t.tail = s.advance s.tail) (hhead : t.head = s.head)
    (hf : t.fifo = s.fifo) (he : t.epoch = s.epoch) :
    s.contents = s.fifoByte s.tail.toNat :: t.contents := by
  have hc : t.cap = s.cap := by unfold State.cap; rw [hb]
  have hbyte : t.fifoByte = s.fifoByte := by funext i; unfold State.fifoByte; rw [hf, he]
  unfold State.contents
  rw [State.count_consume hh ht hne hb htail hhead, List.range_succ_eq_map, List.map_cons, List.map_map,
    hbyte, hc, htail, s.toNat_advance]
  congr 1
  · simp [Nat.mod_eq_of_lt ht]
  · refine List.map_congr_left fun k _ => ?_
    simp only [Function.comp, Nat.mod_add_mod]
    congr 2
    omega

/-- The buffer is empty exactly when it holds no byte. -/
theorem State.contents_eq_nil_iff (s : State) (hh : s.head.toNat < s.cap) (ht : s.tail.toNat < s.cap) :
    s.contents = [] ↔ s.head = s.tail := by
  rw [← List.length_eq_zero_iff, State.length_contents, s.count_eq_zero_iff hh ht]

end Sys2Proof.Machine
end

