-- ==== Sys2Proof/Laws/Run.lean ====
section
/-!
SUPPORT. Runs: one lemma for each way a run goes on, and the finite draws as the ones with nothing to come.
-/
namespace Sys2Proof.Machine

theorem State.stepped_eq_some {s t : State} : s.stepped = some t ↔ step s = .next t := by
  unfold State.stepped
  cases h : step s <;> simp

@[simp] theorem State.arrive_nil (s : State) : s.arrive [] = s := by
  simp [State.arrive]

@[simp] theorem State.run_zero (draw : Draw) (s : State) : s.run draw 0 = some s := rfl

/-- A run goes on by the step of the state it has reached, with the next actions of the draw arrived. -/
theorem State.run_succ {draw : Draw} {n : Nat} {s t u : State} (h : s.run draw n = some t)
    (hs : step (t.arrive (draw n)) = .next u) : s.run draw (n + 1) = some u := by
  rw [State.run, h]
  exact State.stepped_eq_some.2 hs

/-- A run of `n + 1` steps is one of `n` steps and a last one. -/
theorem State.run_succ_inv {draw : Draw} {n : Nat} {s u : State} (h : s.run draw (n + 1) = some u) :
    ∃ t, s.run draw n = some t ∧ step (t.arrive (draw n)) = .next u := by
  rw [State.run, Option.bind_eq_some_iff] at h
  obtain ⟨t, h1, h2⟩ := h
  exact ⟨t, h1, State.stepped_eq_some.1 h2⟩

@[simp] theorem State.steps_zero (s : State) : State.steps 0 s = some s := rfl

theorem State.steps_succ {s t : State} (n : Nat) (h : step s = .next t) :
    State.steps (n + 1) s = State.steps n t := by
  rw [State.steps, State.stepped_eq_some.2 h]; rfl

theorem State.steps_add (m n : Nat) (s : State) :
    State.steps (m + n) s = (State.steps m s).bind (State.steps n) := by
  induction m generalizing s with
  | zero => simp
  | succ m ih =>
    rw [Nat.add_right_comm]
    cases hs : s.stepped with
    | none => simp [State.steps, hs]
    | some t => simp [State.steps, hs, ih]

/-- Steps with nothing arriving are the run under the empty draw. -/
theorem State.run_nil (n : Nat) (s : State) : s.run (fun _ => []) n = State.steps n s := by
  induction n with
  | zero => rfl
  | succ n ih =>
    rw [State.run, ih, State.steps_add n 1 s]
    cases State.steps n s with
    | none => rfl
    | some t => simp [State.steps]

end Sys2Proof.Machine
end

