-- ==== Sys2Proof/Tests/Slice0.lean ====
section
/-!
SUPPORT. Tests. Expected values are those of spec/95_test_vectors.md (the vector is named) or worked out from the
bit patterns of R73. A `test_witness_` theorem shows concrete inputs that meet all hypotheses of an obligation.
-/
namespace Sys2Proof.Tests
open Sys2Proof.Machine

/-! ### Words written out bit by bit from R73 -/

theorem test_decode_rxPush : decode .p 0b0001000010100101#16 = .ok (.rxPush 0xA5#8) := by decide
theorem test_decode_fifoAvail : decode .q 0b0010000000000000#16 = .ok .fifoAvail := by decide
theorem test_decode_fifoPop : decode .q 0b0011000000000000#16 = .ok .fifoPop := by decide
theorem test_decode_framerStep : decode .q 0b0100000000000000#16 = .ok .framerStep := by decide
theorem test_decode_framerPoll : decode .q 0b0101000000000000#16 = .ok .framerPoll := by decide
theorem test_decode_frameRead : decode .q 0b0110000000010011#16 = .ok (.frameRead 19#5) := by decide
theorem test_decode_chanDecode : decode .q 0b0111000010000110#16 = .ok (.chanDecode 134#8) := by decide
theorem test_decode_statusRead : decode .q 0b1000000000000000#16 = .ok .statusRead := by decide

/-- T-EN-1 to T-EN-6, T-EN-9: the first failing check of R78 names the fault. -/
theorem test_decode_illegal :
    decode .q 0x0000#16 = .error .illegalOp ∧ decode .q 0x9000#16 = .error .illegalOp ∧
    decode .q 0xF0FF#16 = .error .illegalOp ∧ decode .q 0x2100#16 = .error .illegalOp ∧
    decode .q 0x2001#16 = .error .illegalOp ∧ decode .q 0x6020#16 = .error .illegalOp ∧
    decode .p 0x3100#16 = .error .illegalOp := by decide

/-- Each reason of R75, by its name. -/
theorem test_decode_reasons :
    decodeWord 0x0000#16 = .error .reservedOp ∧ decodeWord 0x9000#16 = .error .reservedOp ∧
    decodeWord 0x2100#16 = .error .reservedBits ∧ decodeWord 0x2001#16 = .error .operandOnNoneForm ∧
    decodeWord 0x6020#16 = .error .indexAbove31 := by decide

/-- T-EN-7, T-EN-8, and every other Q operation on the P port. -/
theorem test_decode_wrong_port :
    decode .q 0x10AA#16 = .error .wrongPort ∧ decode .p 0x3000#16 = .error .wrongPort ∧
    decode .p 0x2000#16 = .error .wrongPort ∧ decode .p 0x4000#16 = .error .wrongPort ∧
    decode .p 0x5000#16 = .error .wrongPort ∧ decode .p 0x601F#16 = .error .wrongPort ∧
    decode .p 0x70FF#16 = .error .wrongPort ∧ decode .p 0x8000#16 = .error .wrongPort := by decide

theorem test_decodeTableWord :
    decodeTableWord 16 0x10A5 = some (.rxPush 0xA5#8) ∧ decodeTableWord 16 0x601E = some (.frameRead 30#5) ∧
    decodeTableWord 16 0x6020 = none ∧ decodeTableWord 8 0x3000 = none := by decide

/-! ### Well-formedness: one ill-formed line for each check (R81, R82) -/

theorem test_wf_line : AsmLine.wellFormed ⟨.p, .rxPush, [255]⟩ = true := by decide
theorem test_wf_none_with_operand : AsmLine.wellFormed ⟨.q, .fifoPop, [0]⟩ = false := by decide
theorem test_wf_d8_range : AsmLine.wellFormed ⟨.p, .rxPush, [256]⟩ = false := by decide
theorem test_wf_d8_missing : AsmLine.wellFormed ⟨.p, .rxPush, []⟩ = false := by decide
theorem test_wf_d8_two : AsmLine.wellFormed ⟨.p, .rxPush, [1, 2]⟩ = false := by decide
theorem test_wf_idx5_range : AsmLine.wellFormed ⟨.q, .frameRead, [32]⟩ = false := by decide
theorem test_wf_idx5_missing : AsmLine.wellFormed ⟨.q, .frameRead, []⟩ = false := by decide
theorem test_wf_ch8_range : AsmLine.wellFormed ⟨.q, .chanDecode, [256]⟩ = false := by decide
theorem test_wf_ch8_missing : AsmLine.wellFormed ⟨.q, .chanDecode, []⟩ = false := by decide
theorem test_wf_feed_empty : AsmLine.wellFormed ⟨.p, .rxFeed, []⟩ = false := by decide
theorem test_wf_feed_range : AsmLine.wellFormed ⟨.p, .rxFeed, [1, 256]⟩ = false := by decide
theorem test_wf_feed_port : AsmLine.wellFormed ⟨.q, .rxFeed, [1]⟩ = false := by decide

/-! ### Assembler text: the examples of R81 and R82 -/

theorem test_asm_push : assembleText "P: RX_PUSH 0x20".toList = some [.command .p 0x1020#16] := by decide
theorem test_asm_chan : assembleText "Q: CHAN_DECODE 5 ; channel".toList = some [.command .q 0x7005#16] := by decide
theorem test_asm_pop : assembleText "Q: FIFO_POP".toList = some [.command .q 0x3000#16] := by decide
theorem test_asm_feed : assembleText "P: RX_FEED 0x11, 34, 0x33".toList =
    some [.command .p 0x1011#16, .command .p 0x1022#16, .command .p 0x1033#16] := by decide
theorem test_asm_range : assembleText "Q: FRAME_READ 32".toList = none := by decide
theorem test_asm_comment : assembleText "  ; nothing".toList = some [] := by decide

/-! ### Small states -/

def capTwo : Build := ⟨2, by decide, by decide⟩
def capFour : Build := ⟨4, by decide, by decide⟩

/-- The next state of an outcome, if there is one. -/
def next? : Host.Outcome State Fault Refusal → Option State
  | .next s => some s
  | .fault _ => none
  | .refused _ => none

/-- `bytes` pushed one after another. -/
def pushed (bytes : List Byte) (s : State) : State :=
  bytes.foldl (fun s b => (next? (exec (.rxPush b) s)).getD s) s

/-- An instance with capacity `b`, right after reset. -/
def fresh (b : Build) : State := { State.reset with build := b }

/-- Frame A of the vectors. -/
def frameA : List Byte :=
  [0x20, 0x40, 0xE8, 0x03, 0x2E, 0x04, 0x74, 0x04, 0xBA, 0x04, 0x00, 0x05, 0x46, 0x05, 0x8C, 0x05] ++
  [0xD2, 0x05, 0x18, 0x06, 0x5E, 0x06, 0xA4, 0x06, 0xEA, 0x06, 0x30, 0x07, 0x76, 0x07, 0xC4, 0xF8]

/-- The framer after `n` bytes of the candidate `bytes`, from position 2 on. -/
def midFrame (bytes : List Byte) (n : Nat) (s : State) : State :=
  { s with fstate := .accumulating, pos := BitVec.ofNat 5 n, accbuf := Memory.ofBytes 0 (bytes.take n) }

/-- `bytes` held in the slots from 0 on. -/
def filled (bytes : List Byte) : State :=
  { State.reset with fifo := Memory.ofBytes 0 bytes, head := BitVec.ofNat 8 bytes.length }

/-- Frame A held in the frame register. -/
def holdingA : State := { State.reset with frame := Memory.ofBytes 0 frameA, frameValid := true }

/-- What one step with one command returns on its port, and the status word after it. -/
def after (port : Port) (w : CommandWord) (s : State) : Option (Option ResultWord × ResultWord) :=
  (next? (step { s with inputs := [.command port w] })).map fun t =>
    (if port = .p then t.pResult else t.qResult, t.statusWord)

/-! ### One step of each operation, from the vectors -/

/-- T-FI-2. -/
theorem test_push : after .p 0x10A5 State.reset = some (some 1#32, 0x04000001#32) := by decide
/-- T-FI-3: the fourth byte is dropped. -/
theorem test_push_full : after .p 0x1004 (pushed [1, 2, 3] (fresh capFour)) =
    some (some 0#32, 0x0C000003#32) := by decide
/-- T-FI-1. -/
theorem test_avail_empty : after .q 0x2000 State.reset = some (some 0#32, 0x00000000#32) := by decide
/-- T-FI-2. -/
theorem test_avail : after .q 0x2000 (pushed [0xA5] State.reset) = some (some 1#32, 0x04000001#32) := by decide
/-- T-FI-3b. -/
theorem test_pop : after .q 0x3000 (pushed [1, 2, 3] (fresh capFour)) =
    some (some 1#32, 0x04000103#32) := by decide
/-- T-FI-7. -/
theorem test_pop_empty : after .q 0x3000 State.reset = some (some 0#32, 0x30000000#32) := by decide
/-- T-FR-8, the last byte: emitted. -/
theorem test_framerStep_emit : after .q 0x4000 (midFrame frameA 31 (pushed [0xF8] State.reset)) =
    some (some 2#32, 0x02000101#32) := by decide
/-- T-FR-9, the last byte: the pair at start index 30 is scanned. -/
theorem test_framerStep_reject :
    after .q 0x4000 (midFrame (frameA.take 30 ++ [0x20]) 31 (pushed [0x40] State.reset)) =
    some (some 1#32, 0x00000101#32) := by decide
/-- T-FR-20. -/
theorem test_framerPoll_empty : after .q 0x5000 State.reset = some (some 0#32, 0x00000000#32) := by decide
/-- T-FR-16, the last byte. -/
theorem test_framerPoll_emit : after .q 0x5000 (midFrame frameA 31 (pushed [0xF8] State.reset)) =
    some (some 1#32, 0x02000101#32) := by decide
/-- T-RO-4. -/
theorem test_frameRead : after .q 0x601E holdingA = some (some 0xC4#32, 0x02000000#32) := by decide
theorem test_frameRead_last : after .q 0x601F holdingA = some (some 0xF8#32, 0x02000000#32) := by decide
/-- T-RO-3. -/
theorem test_chanDecode : after .q 0x700E holdingA = some (some 1910#32, 0x02000000#32) := by decide
/-- T-EN-11. -/
theorem test_chanDecode_out : after .q 0x70FF State.reset = some (some 1500#32, 0x00000000#32) := by decide
/-- T-RO-5. -/
theorem test_status : after .q 0x8000 (filled frameA) =
    some (some 0x04000020#32, 0x04000020#32) := by decide
/-- T-EN-10, the second fault: the first one is kept. -/
theorem test_first_fault_kept : after .q 0x3000 { State.reset with fault := 1#4 } =
    some (some 0#32, 0x10000000#32) := by decide
/-- T-RS-1. -/
theorem test_reset : (next? (step { State.reset with
    head := 1#8, tail := 1#8, fault := 3#4, inputs := [.reset] })).map State.statusWord =
    some 0x00000000#32 := by decide
/-- The host's placing of a word: it runs in the next step. -/
theorem test_withFetchWord :
    step (State.reset.withFetchWord 16 0x10A5) = exec (.rxPush 0xA5#8) State.reset := rfl

/-! ### States that meet the invariant -/

/-- The clauses of the invariant that a state with no frame held has left to check. -/
theorem inv_of_no_frame {s : State}
    (h : (s.head.toNat < s.cap ∧ s.tail.toNat < s.cap ∧ s.fifo.wf s.cap = true ∧
      s.accbuf.wf Config.frameLen = true) ∧
      (∀ k < s.count, (s.fifo.read? ((s.tail.toNat + k) % s.cap)).isSome = true) ∧
      ((s.fstate = .seekingHeader → s.pos.toNat ≤ 1) ∧
        (s.fstate = .accumulating → 2 ≤ s.pos.toNat ∧ s.pos.toNat ≤ 31)) ∧
      (∀ i < s.pos.toNat, (s.accbuf.read? i).isSome = true) ∧
      (1 ≤ s.pos.toNat → s.accByte 0 = 0x20#8) ∧ (2 ≤ s.pos.toNat → s.accByte 1 = 0x40#8) ∧
      s.frame = [] ∧ s.frameValid = false ∧ s.fault.toNat ≤ 3 ∧
      (s.pollInFlight = true → s.qResult = none)) : s.Inv := by
  obtain ⟨⟨h1, h2, h3, h4⟩, h5, h6, h7, h8, h9, hf, hv, h10, h11⟩ := h
  exact {
    head_lt := h1, tail_lt := h2, fifo_wf := h3, accbuf_wf := h4, frame_wf := by rw [hf]; rfl
    fifo_written := h5, pos_legal := h6, acc_written := h7, acc_hdr0 := h8, acc_hdr1 := h9
    frame_unwritten := fun _ => hf
    frame_written := fun h => by simp [hv] at h
    frame_hdr := fun h => by simp [hv] at h
    frame_scan := fun h => by simp [hv] at h
    fault_known := h10, poll_no_result := h11 }

theorem inv_reset : State.reset.Inv := inv_of_no_frame (by decide)
theorem inv_one_held : (pushed [0x55] State.reset).Inv := inv_of_no_frame (by decide)
theorem inv_full : (pushed [1, 2, 3] (fresh capFour)).Inv := inv_of_no_frame (by decide)
theorem inv_two_of_four : (pushed [1, 2] (fresh capFour)).Inv := inv_of_no_frame (by decide)
theorem inv_capTwo : (fresh capTwo).Inv := inv_of_no_frame (by decide)
theorem inv_mid_frame : (midFrame frameA 31 (pushed [0xF8] State.reset)).Inv := inv_of_no_frame (by decide)

/-- A poll in flight that has returned nothing. -/
def polling (s : State) : State := { s with pollInFlight := true, qResult := none }

theorem inv_polling_A : (polling (filled frameA)).Inv := inv_of_no_frame (by decide)

/-- Frame A with a header pair at 10 and 11 (T-FR-10). -/
def frameW4 : List Byte := frameA.take 10 ++ [0x20, 0x40] ++ frameA.drop 12

theorem inv_polling_W4 : (polling (filled frameW4)).Inv := inv_of_no_frame (by decide)

/-! ### Witnesses: encoding -/

theorem test_witness_EncodeOfDecode : decodeWord 0x10A5#16 = .ok (.rxPush 0xA5#8) := by decide

theorem test_witness_WordSelectsAtMostOneRow :
    (⟨.q, 0x6000#16, 0xFFE0#16⟩ : OpcodeRow) ∈ opcodeTable ∧
    OpcodeRow.selects ⟨.q, 0x6000#16, 0xFFE0#16⟩ 0x601F#16 = true ∧
    decodeWord 0x601F#16 = .ok (.frameRead 31#5) := by decide

/-- An illegal word on the busy block's P port, and one on a free Q port. -/
theorem test_witness_IllegalWordsFault :
    (∀ r ∈ opcodeTable, ¬ r.selects 0x6020#16) ∧ (∀ r ∈ opcodeTable, ¬ r.selects 0xF0FF#16) ∧
    (({ State.reset with inputs := [.command .p 0x6020#16], pollInFlight := true } : State).inputs =
      .command .p 0x6020#16 :: [] ∧ (Port.p = .q → true = false)) ∧
    (({ State.reset with inputs := [.command .q 0xF0FF#16] } : State).inputs =
      .command .q 0xF0FF#16 :: [] ∧ State.reset.pollInFlight = false) := by decide

/-- The boundary words of R75, each with its legal neighbour. -/
theorem test_witness_IllegalWordsFault_boundaries :
    (∀ r ∈ opcodeTable, ¬ r.selects 0x0FFF#16) ∧ (∃ r ∈ opcodeTable, r.selects 0x1000#16) ∧
    (∃ r ∈ opcodeTable, r.selects 0x8000#16) ∧ (∀ r ∈ opcodeTable, ¬ r.selects 0x9000#16) ∧
    (∃ r ∈ opcodeTable, r.selects 0x10FF#16) ∧ (∀ r ∈ opcodeTable, ¬ r.selects 0x1100#16) ∧
    (∀ r ∈ opcodeTable, ¬ r.selects 0x8001#16) ∧ (∃ r ∈ opcodeTable, r.selects 0x601F#16) ∧
    (∀ r ∈ opcodeTable, ¬ r.selects 0x6020#16) := by decide

/-- Both ports: `RX_PUSH` on Q, and `FIFO_POP` on P while a poll is in flight. -/
theorem test_witness_WrongPortFaults :
    ((⟨.p, 0x1000#16, 0xFF00#16⟩ : OpcodeRow) ∈ opcodeTable ∧
      OpcodeRow.selects ⟨.p, 0x1000#16, 0xFF00#16⟩ 0x10AA#16 = true ∧ Port.p ≠ .q ∧
      State.reset.pollInFlight = false) ∧
    ((⟨.q, 0x3000#16, 0xFFFF#16⟩ : OpcodeRow) ∈ opcodeTable ∧
      OpcodeRow.selects ⟨.q, 0x3000#16, 0xFFFF#16⟩ 0x3000#16 = true ∧ Port.q ≠ .p) := by decide

/-- A word for each branch of the checks, in their order (R78). -/
theorem test_witness_DecodeOrder :
    (0x0FFF#16).toNat / 4096 = 0 ∧ (0x9000#16).toNat / 4096 = 9 ∧ (0x1100#16).toNat / 256 % 16 = 1 ∧
    ((0x2001#16).toNat / 4096 ∈ [2, 3, 4, 5, 8] ∧ (0x2001#16).toNat % 256 = 1) ∧
    ((0x6020#16).toNat / 4096 = 6 ∧ (0x6020#16).toNat % 256 / 32 = 1) ∧
    ((0x1000#16).toNat / 4096 = 1 ∧ Port.q ≠ .p) ∧ ((0x3000#16).toNat / 4096 ≠ 1 ∧ Port.p ≠ .q) ∧
    decode .q 0x601F#16 = .ok (.frameRead 31#5) := by decide

/-! ### Witnesses: the step -/

/-- A push while a poll is in flight, and a Q command with none. -/
theorem test_witness_StepRunsDecodedCommand :
    (({ State.reset with inputs := [.command .p 0x10A5#16], pollInFlight := true } : State).inputs =
        [.command .p 0x10A5#16] ∧ (Port.p = .q → true = false) ∧
        decode .p 0x10A5#16 = .ok (.rxPush 0xA5#8)) ∧
    (({ State.reset with inputs := [.command .q 0x3000#16] } : State).inputs = [.command .q 0x3000#16] ∧
        State.reset.pollInFlight = false ∧ decode .q 0x3000#16 = .ok .fifoPop) := by decide

theorem test_witness_PlacedWordRuns : decodeTableWord 16 0x7005 = some (.chanDecode 5#8) := by decide

/-- With no action to come: the empty FIFO. -/
theorem test_witness_PollGoesOn_empty :
    (polling State.reset).pollInFlight = true ∧ (polling State.reset).inputs = [] ∧
    ∃ u, exec .framerStep (polling State.reset) = .next u ∧ u.qResult = some 0#32 :=
  ⟨rfl, rfl, _, rfl, rfl⟩

/-- While a command waits: a byte consumed. -/
theorem test_witness_PollGoesOn_waiting :
    let s := { polling (pushed [0x55] State.reset) with inputs := [.command .q 0x8000#16] }
    s.pollInFlight = true ∧ (∃ w rest, s.inputs = .command .q w :: rest) ∧
    ∃ u, exec .framerStep s = .next u ∧ u.qResult = some 1#32 :=
  ⟨rfl, ⟨_, _, rfl⟩, _, rfl, rfl⟩

/-- On the consumer's turn: a frame. -/
theorem test_witness_PollGoesOn_turn :
    let s := { polling (midFrame frameA 31 (pushed [0xF8] State.reset)) with inputs := [.pollTurn] }
    s.pollInFlight = true ∧ (∃ rest, s.inputs = .pollTurn :: rest) ∧
    ∃ u, exec .framerStep { s with inputs := [] } = .next u ∧ u.qResult = some 2#32 :=
  ⟨rfl, ⟨_, rfl⟩, _, rfl, by decide⟩

/-- For `HostResetEntryState` and `HostResetSetsState`: a reset during a poll, with a fault held; and one with nothing
after it, the case of the block that waits. -/
theorem test_witness_HostReset :
    ({ polling (filled frameA) with
      fault := 3#4, inputs := [.reset, .command .q 0x8000#16] } : State).inputs =
      .reset :: [.command .q 0x8000#16] ∧
    ({ polling State.reset with inputs := [.reset] } : State).inputs = .reset :: [] := by decide

/-! ### Witnesses: ring buffer -/

/-- Both clauses at the boundary: one byte short of full accepts, the full buffer does not. -/
theorem test_witness_RxPushAccepted :
    let s := pushed [1, 2] (fresh capFour)
    s.head.toNat < s.cap ∧ (s.head.toNat + 1) % s.cap ≠ s.tail.toNat := by decide

/-- The last slot: `HEAD` wraps. -/
theorem test_witness_RxPushAccepted_wrap :
    let s : State := { fresh capFour with head := 3#8, tail := 3#8 }
    s.head.toNat < s.cap ∧ (s.head.toNat + 1) % s.cap ≠ s.tail.toNat := by decide

theorem test_witness_RxPushDroppedWhenFull :
    let s := pushed [1, 2, 3] (fresh capFour)
    (s.head.toNat + 1) % s.cap = s.tail.toNat := by decide

theorem test_witness_ProducerNeverWaits :
    let s := { polling (pushed [1, 2, 3] (fresh capFour)) with
      inputs := [.command .p (encode (.rxPush 4#8))] }
    s.head.toNat < s.cap ∧ s.inputs = .command .p (encode (.rxPush 4#8)) :: [] := by decide

theorem test_witness_FifoPopReturnsOldest :
    let s : State := { pushed [1, 2, 3] (fresh capFour) with head := 0#8, tail := 3#8 }
    s.head ≠ s.tail ∧ s.tail.toNat < s.cap := by decide

/-- For `FifoPopEmptyFaults` and `FramerStepOnEmpty`. -/
theorem test_witness_empty : State.reset.head = State.reset.tail := by decide

/-- Both sides of the equivalence: an empty and a non-empty buffer. -/
theorem test_witness_AvailExactlyWhenPopSucceeds :
    (State.reset.Inv ∧ State.reset.fault = 0#4) ∧
    ((pushed [0x55] State.reset).Inv ∧ (pushed [0x55] State.reset).fault = 0#4) :=
  ⟨⟨inv_reset, rfl⟩, ⟨inv_one_held, rfl⟩⟩

/-- One slot left, and none. -/
theorem test_witness_RxPushAppendsToQueue :
    ((pushed [1, 2] (fresh capFour)).Inv ∧
      (pushed [1, 2] (fresh capFour)).count < (pushed [1, 2] (fresh capFour)).cap - 1) ∧
    ((pushed [1, 2, 3] (fresh capFour)).Inv ∧
      (pushed [1, 2, 3] (fresh capFour)).count = (pushed [1, 2, 3] (fresh capFour)).cap - 1) :=
  ⟨⟨inv_two_of_four, by decide⟩, ⟨inv_full, by decide⟩⟩

theorem test_witness_ConsumerTakesOldest :
    (pushed [1, 2, 3] (fresh capFour)).Inv ∧
    (pushed [1, 2, 3] (fresh capFour)).contents = 1#8 :: [2#8, 3#8] :=
  ⟨inv_full, by decide⟩

/-- Just as many bytes as fit. -/
theorem test_witness_PushedBytesComeBackInOrder :
    (pushed [1, 2] (fresh capFour)).Inv ∧
    (pushed [1, 2] (fresh capFour)).contents.length + [3#8].length ≤
      (pushed [1, 2] (fresh capFour)).cap - 1 :=
  ⟨inv_two_of_four, by decide⟩

/-- The smallest buffer: one byte fits (T-FI-5). -/
theorem test_witness_ExcessPushesAreDropped : (fresh capTwo).Inv ∧ (fresh capTwo).contents = [] :=
  ⟨inv_capTwo, by decide⟩

theorem test_witness_PushAndPopCommute :
    (pushed [1, 2] (fresh capFour)).Inv ∧ (pushed [1, 2] (fresh capFour)).contents ≠ [] ∧
    (pushed [1, 2] (fresh capFour)).count < (pushed [1, 2] (fresh capFour)).cap - 1 :=
  ⟨inv_two_of_four, by decide, by decide⟩

/-! ### Witnesses: framer -/

/-- Each clause: a first header byte at positions 0 and 1, a second one at 1, and another byte at 0 and at 1. -/
theorem test_witness_FramerSeeksHeader :
    ((pushed [0x20] State.reset).HasByte 0x20#8 ∧ (pushed [0x40] State.reset).HasByte 0x40#8) ∧
    ({ pushed [0x20] State.reset with pos := 1#5 } : State).HasByte 0x20#8 ∧
    ({ pushed [0x40] State.reset with pos := 1#5 } : State).HasByte 0x40#8 ∧
    ({ pushed [0x41] State.reset with pos := 1#5 } : State).HasByte 0x41#8 ∧
    State.reset.fstate = .seekingHeader ∧ State.reset.pos = 0#5 := by
  unfold State.HasByte; decide

/-- The first and the last position below 31, a header byte among the bytes. -/
theorem test_witness_FramerStoresBodyByte :
    ((midFrame frameA 2 (pushed [0x20] State.reset)).HasByte 0x20#8 ∧
      (midFrame frameA 2 (pushed [0x20] State.reset)).fstate = .accumulating ∧
      (midFrame frameA 2 (pushed [0x20] State.reset)).pos.toNat < 31) ∧
    ((midFrame frameA 30 (pushed [0x40] State.reset)).HasByte 0x40#8 ∧
      (midFrame frameA 30 (pushed [0x40] State.reset)).fstate = .accumulating ∧
      (midFrame frameA 30 (pushed [0x40] State.reset)).pos.toNat < 31) := by
  unfold State.HasByte; decide

/-- No header pair at a start index from 2 to 30, for a bounded check. -/
theorem no_pair_of_check {a : Nat → Byte}
    (h : ∀ i < 31, 2 ≤ i → ¬ (a i = 0x20#8 ∧ a (i + 1) = 0x40#8)) :
    ¬ ∃ i, 2 ≤ i ∧ i ≤ 30 ∧ a i = 0x20#8 ∧ a (i + 1) = 0x40#8 := by
  rintro ⟨i, h2, h30, hi⟩
  exact h i (by omega) h2 hi

theorem test_witness_FramerEmitsFrame :
    let s := midFrame frameA 31 (pushed [0xF8] State.reset)
    s.HasByte 0xF8#8 ∧ s.fstate = .accumulating ∧ s.pos = 31#5 ∧
    ¬ ∃ i, 2 ≤ i ∧ i ≤ 30 ∧ s.candidate 0xF8#8 i = 0x20#8 ∧ s.candidate 0xF8#8 (i + 1) = 0x40#8 :=
  ⟨by unfold State.HasByte; decide, rfl, rfl, no_pair_of_check (by decide)⟩

/-- The last pair of the scan, at start index 30 (T-FR-9). -/
theorem test_witness_FramerRejectsEmbeddedHeader :
    let s := midFrame (frameA.take 30 ++ [0x20]) 31 (pushed [0x40] State.reset)
    s.HasByte 0x40#8 ∧ s.fstate = .accumulating ∧ s.pos = 31#5 ∧
    ∃ i, 2 ≤ i ∧ i ≤ 30 ∧ s.candidate 0x40#8 i = 0x20#8 ∧ s.candidate 0x40#8 (i + 1) = 0x40#8 :=
  ⟨by unfold State.HasByte; decide, rfl, rfl, 30, by decide⟩

/-- The first pair of the scan, at start index 2 (T-FR-11). -/
theorem test_witness_FramerRejectsEmbeddedHeader_first :
    let s := midFrame ([0x20, 0x40, 0x20, 0x40] ++ frameA.drop 4) 31 (pushed [0xF8] State.reset)
    s.HasByte 0xF8#8 ∧ s.fstate = .accumulating ∧ s.pos = 31#5 ∧
    ∃ i, 2 ≤ i ∧ i ≤ 30 ∧ s.candidate 0xF8#8 i = 0x20#8 ∧ s.candidate 0xF8#8 (i + 1) = 0x40#8 :=
  ⟨by unfold State.HasByte; decide, rfl, rfl, 2, by decide⟩

theorem test_witness_FramerPollTakesFirstMicroStep :
    State.reset.head = State.reset.tail ∧
    (filled frameA).tail.toNat < (filled frameA).cap := by decide

theorem test_witness_PollTerminates :
    (polling (filled frameA)).Inv ∧ (polling (filled frameA)).pollInFlight = true ∧
    (polling (filled frameA)).inputs = [] :=
  ⟨inv_polling_A, rfl, by decide⟩

/-- The step that finds the FIFO empty, and the one that emits. -/
theorem test_witness_PollReturnsOnlyOnEmptyOrFrame :
    ((polling State.reset).pollInFlight = true ∧ (¬ ∃ rest, (polling State.reset).inputs = .reset :: rest) ∧
      ∃ t, step (polling State.reset) = .next t ∧ t.pollInFlight = false ∧ t.qResult = some 0#32) ∧
    (let s := polling (midFrame frameA 31 (pushed [0xF8] State.reset))
     s.pollInFlight = true ∧ (¬ ∃ rest, s.inputs = .reset :: rest) ∧
      ∃ t, step s = .next t ∧ t.pollInFlight = false ∧ t.qResult = some 1#32) :=
  ⟨⟨rfl, by simp [polling, State.reset], _, rfl, rfl, rfl⟩,
    by refine ⟨rfl, ?_, _, rfl, by decide, by decide⟩; rintro ⟨_, h⟩; cases h⟩

/-- A stream of zero bytes, from an empty buffer and from the smallest buffer when it is full. -/
theorem test_witness_PollFedForeverDoesNotReturn :
    (polling State.reset).Inv ∧ (polling (pushed [0] (fresh capTwo))).Inv ∧
    (∀ s ∈ [polling State.reset, polling (pushed [0] (fresh capTwo))],
      s.pollInFlight = true ∧ s.inputs = [] ∧ s.fstate = .seekingHeader ∧ s.pos = 0#5 ∧
      ∀ b ∈ s.contents, b ≠ 0x20#8) ∧
    ∀ k : Nat, (fun _ => 0#8 : Nat → Byte) k ≠ 0x20#8 :=
  ⟨inv_of_no_frame (by decide), inv_of_no_frame (by decide), by decide, fun _ => (by decide : (0#8 : Byte) ≠ 0x20#8)⟩

theorem test_witness_ValidFrameIsEmitted :
    let s := polling (filled frameA)
    s.Inv ∧ s.pollInFlight = true ∧ s.inputs = [] ∧ s.fstate = .seekingHeader ∧ s.pos = 0#5 ∧
    s.contents = frameA ++ [] ∧ frameA.length = 32 ∧ frameA[0]? = some 0x20#8 ∧ frameA[1]? = some 0x40#8 ∧
    ¬ ∃ i, 2 ≤ i ∧ i ≤ 30 ∧ frameA[i]? = some 0x20#8 ∧ frameA[i + 1]? = some 0x40#8 := by
  refine ⟨inv_polling_A, rfl, by decide, by decide, by decide, by decide, by decide, by decide, by decide, ?_⟩
  rintro ⟨i, h2, h30, hi⟩
  exact absurd hi ((by decide : ∀ i < 31, 2 ≤ i →
    ¬ (frameA[i]? = some 0x20#8 ∧ frameA[i + 1]? = some 0x40#8)) i (by omega) h2)

theorem test_witness_EmbeddedHeaderFrameIsLost :
    let s := polling (filled frameW4)
    s.Inv ∧ s.pollInFlight = true ∧ s.inputs = [] ∧ s.fstate = .seekingHeader ∧ s.pos = 0#5 ∧
    s.contents = frameW4 ++ [] ∧ frameW4.length = 32 ∧ frameW4[0]? = some 0x20#8 ∧
    frameW4[1]? = some 0x40#8 ∧
    ∃ i, 2 ≤ i ∧ i ≤ 30 ∧ frameW4[i]? = some 0x20#8 ∧ frameW4[i + 1]? = some 0x40#8 :=
  ⟨inv_polling_W4, rfl, by decide, by decide, by decide, by decide, by decide, by decide, by decide,
    10, by decide⟩

/-- Two blocks of different capacity and epoch, the byte in different slots, a stale byte at the position of one. -/
theorem test_witness_FramerDependsOnlyOnBytes :
    let s1 := midFrame frameA 31 (pushed [0xF8] State.reset)
    let s2 : State := { midFrame frameA 31 { pushed [1, 2, 0xF8] (fresh capFour) with tail := 2#8 } with
      epoch := 7, accbuf := Memory.ofBytes 0 (frameA.take 31 ++ [0x99]) }
    s1.HasByte 0xF8#8 ∧ s2.HasByte 0xF8#8 ∧ s1.fstate = s2.fstate ∧ s1.pos = s2.pos ∧
    (∀ i < s1.pos.toNat, s1.accByte i = s2.accByte i) ∧
    ∃ t1 t2, exec .framerStep s1 = .next t1 ∧ exec .framerStep s2 = .next t2 ∧ t1.qResult = some 2#32 :=
  ⟨by unfold State.HasByte; decide, by unfold State.HasByte; decide, rfl, rfl, by decide,
    _, _, rfl, rfl, by decide⟩

/-- A whole frame and, in the second block, a byte behind it. -/
theorem test_witness_FramerOutputDependsOnlyOnBytes :
    let s1 := filled frameA
    let s2 : State := { filled (frameA ++ [0x55]) with build := ⟨128, by decide, by decide⟩, epoch := 7 }
    s1.head.toNat < s1.cap ∧ s1.tail.toNat < s1.cap ∧ s2.head.toNat < s2.cap ∧ s2.tail.toNat < s2.cap ∧
    s1.contents = frameA ++ [] ∧ s2.contents = frameA ++ [0x55] ∧ s1.fstate = s2.fstate ∧ s1.pos = s2.pos ∧
    ∀ i < s1.pos.toNat, s1.accByte i = s2.accByte i := by decide

theorem test_witness_EmittedFrameIsValid :
    (midFrame frameA 31 (pushed [0xF8] State.reset)).Inv ∧
    ∃ t, exec .framerStep (midFrame frameA 31 (pushed [0xF8] State.reset)) = .next t ∧
      t.qResult = some 2#32 :=
  ⟨inv_mid_frame, _, rfl, by decide⟩

/-! ### Witnesses: read-out and whole machine -/

theorem test_witness_FrameReadResult : State.reset.Inv ∧ State.reset.frameValid = false :=
  ⟨inv_reset, rfl⟩

/-- The channels at the ends of both ranges. -/
theorem test_witness_ChanDecodeResult :
    (1 ≤ (1#8).toNat ∧ (1#8).toNat ≤ 14) ∧ (1 ≤ (14#8).toNat ∧ (14#8).toNat ≤ 14) ∧
    (0#8).toNat = 0 ∧ 15 ≤ (15#8).toNat ∧ 15 ≤ (255#8).toNat := by decide

theorem test_witness_ReadsAreIdempotent :
    Instr.statusRead ∈ [Instr.fifoAvail, .frameRead 31#5, .chanDecode 14#8, .statusRead] := by decide

/-- For the statements about every step from a state that meets the invariant: the step that emits a frame. -/
theorem test_witness_invariant_step :
    let s := { midFrame frameA 31 (pushed [0xF8] State.reset) with inputs := [.command .q (encode .framerStep)] }
    s.Inv ∧ s.PosLegal ∧ ∃ t, step s = .next t ∧ t.frameValid = true :=
  have h : ({ midFrame frameA 31 (pushed [0xF8] State.reset) with
      inputs := [.command .q (encode .framerStep)] } : State).Inv := inv_of_no_frame (by decide)
  ⟨h, h.pos_legal, _, rfl, rfl⟩

/-- For `StepActsAsQueue` and `SingleWriterPerIndex`: a push moves `HEAD`. -/
theorem test_witness_push_step :
    let s := { State.reset with inputs := [.command .p (encode (.rxPush 1#8))] }
    s.Inv ∧ ∃ t, step s = .next t ∧ t.head ≠ s.head ∧ t.contents = [1#8] :=
  ⟨inv_of_no_frame (by decide), _, rfl, by decide, by decide⟩

/-- For `StepActsAsQueue` and `SingleWriterPerIndex`: a pop moves `TAIL`. -/
theorem test_witness_pop_step :
    let s := { pushed [0x55] State.reset with inputs := [.command .q (encode .fifoPop)] }
    s.Inv ∧ ∃ t, step s = .next t ∧ t.tail ≠ s.tail ∧ t.contents = [] :=
  ⟨inv_of_no_frame (by decide), _, rfl, by decide, by decide⟩

/-- A push while a poll is in flight, and a pop with no poll in flight. -/
theorem test_witness_OnlyFramerStepsMoveFramer :
    (let s := { polling State.reset with inputs := [.command .p 0x1020#16] }
     (∃ t, step s = .next t) ∧ (¬ ∃ rest, s.inputs = .reset :: rest) ∧
     (∃ w rest, s.inputs = .command .p w :: rest) ∧
     (∀ rest, s.inputs ≠ .command .q (encode .framerStep) :: rest ∧
       s.inputs ≠ .command .q (encode .framerPoll) :: rest)) ∧
    (let s := { pushed [0x20] State.reset with inputs := [.command .q 0x3000#16] }
     (∃ t, step s = .next t) ∧ (¬ ∃ rest, s.inputs = .reset :: rest) ∧ s.pollInFlight = false ∧
     (∀ rest, s.inputs ≠ .command .q (encode .framerStep) :: rest ∧
       s.inputs ≠ .command .q (encode .framerPoll) :: rest)) := by
  refine ⟨⟨⟨_, rfl⟩, by simp, ⟨_, _, rfl⟩, fun _ => by simp⟩,
    ⟨⟨_, rfl⟩, by simp, rfl, fun rest => ⟨fun h => ?_, fun h => ?_⟩⟩⟩
  all_goals
    simp only [List.cons.injEq, AgentAction.command.injEq] at h
    exact absurd h.1.2 (by decide)

/-- For `FrameChangesOnlyOnEmit`, `FaultIsSticky` and `CapIsFixed`: a step that records a fault. -/
theorem test_witness_fault_step :
    ∃ t, step { State.reset with inputs := [.command .q 0x3000#16] } = .next t ∧ t.fault = 3#4 :=
  ⟨_, rfl, rfl⟩

/-- P6: a pop of the empty buffer, and the run has gone wrong (R163). -/
theorem test_gone_wrong : ∃ t, step { State.reset with inputs := [.command .q 0x3000#16] } = .next t ∧ t.GoneWrong :=
  ⟨_, rfl, by unfold State.GoneWrong; decide⟩

/-- A run under a draw that delivers one byte before the first step. -/
theorem test_witness_CleanEndMeansCleanRun :
    let draw := linkDraw fun n => if n = 0 then some 0x55#8 else none
    (∀ k, AgentAction.reset ∉ draw k) ∧ AgentAction.reset ∉ State.reset.inputs ∧ 1 ≤ 2 ∧
    ∃ t, State.reset.EndsWell draw 2 t ∧ t.contents = [0x55#8] :=
  ⟨fun k => by by_cases h : k = 0 <;> simp [linkDraw, linkDelivers, pushOf, h], by decide, by decide,
    _, ⟨rfl, by unfold State.GoneWrong; decide⟩, by decide⟩

/-- The smallest and the reference capacity. -/
theorem test_witness_RunsKeepInvariant : (fresh capTwo).Inv ∧ State.reset.Inv := ⟨inv_capTwo, inv_reset⟩

theorem test_witness_FaultDoesNotChangeOperations :
    Instr.fifoPop ≠ .statusRead ∧ ∃ t, exec .fifoPop State.reset = .next t :=
  ⟨by decide, _, rfl⟩

/-- A line for each clause at the ends of its range: the last value in range, and the first one out of it. -/
theorem test_witness_WellFormedLinesAssemble :
    assemble ⟨.p, .rxPush, [255]⟩ = some [.command .p 0x10FF#16] ∧ assemble ⟨.p, .rxPush, [256]⟩ = none ∧
    assemble ⟨.q, .frameRead, [31]⟩ = some [.command .q 0x601F#16] ∧ assemble ⟨.q, .frameRead, [32]⟩ = none ∧
    assemble ⟨.q, .chanDecode, [255]⟩ = some [.command .q 0x70FF#16] ∧
    assemble ⟨.q, .chanDecode, [256]⟩ = none ∧
    (Mnemonic.chanDecode ∈ [Mnemonic.rxPush, .frameRead, .chanDecode] ∧ ([] : List Nat).length ≠ 1) ∧
    (Mnemonic.fifoPop ∈ [Mnemonic.fifoAvail, .fifoPop, .framerStep, .framerPoll, .statusRead] ∧ [0] ≠ []) := by
  decide

theorem test_witness_RxFeedIsPushes :
    ([0, 255] ≠ [] ∧ ∀ n ∈ [0, 255], n ≤ 255) ∧ ∃ n ∈ [0, 256], 256 ≤ n := by decide

end Sys2Proof.Tests
end

section
/-!
PROOFS. The build of the instance (00_scope.md R7): each shared operation leaves it as it is, hence every operation
of the table, and hence every step.
-/
namespace Sys2Proof.Machine

@[simp] theorem State.returned_build (s : State) (port : Port) (r : ResultWord) :
    (s.returned port r).build = s.build := by
  cases port <;> rfl

@[simp] theorem State.raiseFault_build (s : State) (port : Port) (c : FaultCode) :
    (s.raiseFault port c).build = s.build := by
  simp [State.raiseFault]

@[simp] theorem State.afterMicroStep_build (s : State) (o : StepOutcome) :
    (s.afterMicroStep o).build = s.build := by
  cases o <;> rfl

theorem State.microStep_build {s t : State} {o : StepOutcome} (h : s.microStep = .ok (t, o)) :
    t.build = s.build := by
  obtain ⟨-, rfl, -⟩ | ⟨b, -, rfl, -⟩ := State.microStep_ok h
  · rfl
  · simp

theorem State.pollStep_build {s t : State} (h : s.pollStep = .next t) : t.build = s.build := by
  obtain ⟨u, o, hu, rfl⟩ := State.pollStep_next h
  simp [State.microStep_build hu]

theorem exec_build {i : Instr} {s t : State} (h : exec i s = .next t) : t.build = s.build := by
  cases i with
  | rxPush b => obtain ⟨-, rfl⟩ | ⟨-, -, rfl⟩ := execRxPush_next h <;> simp
  | fifoPop => obtain ⟨-, rfl⟩ | ⟨-, -, rfl⟩ := execFifoPop_next h <;> simp
  | framerStep =>
    obtain ⟨u, o, hu, rfl⟩ := execFramerStep_next h
    simp [State.microStep_build hu]
  | framerPoll => simpa using State.pollStep_build (s := s.beginPoll) h
  | fifoAvail | frameRead _ | chanDecode _ | statusRead => cases h; simp

/-- Settles O50, along everything a step can do: let the step pass, take a micro-step of the poll, fault, execute
an operation, or reset. -/
theorem capIsFixed : Obligations.CapIsFixed := by
  intro s t h
  obtain ⟨-, -, rfl⟩ | ⟨-, -, hpoll⟩ | ⟨_, _, -, -, hpoll⟩ | ⟨_, -, -, rfl⟩ | ⟨_, -, -, hpoll⟩ |
    ⟨_, _, _, _, -, -, -, rfl⟩ | ⟨_, _, _, _, -, -, -, hexec⟩ | ⟨_, -, rfl⟩ := step_cases h
  · rfl
  · exact State.pollStep_build hpoll
  · exact State.pollStep_build hpoll
  · rfl
  · simpa using State.pollStep_build hpoll
  · simp
  · simpa using exec_build hexec
  · simp

end Sys2Proof.Machine
end

section
/-!
PROOFS. Decoding undone: the word of a command that passes the checks is the one its operation encodes to, so a command
is told by its operation and not by its word (30_encoding.md R73, R78).
-/
namespace Sys2Proof

theorem noOperand_ok {imm : BitVec 8} {i j : Instr} (h : noOperand imm i = .ok j) : imm = 0#8 ∧ i = j := by
  unfold noOperand at h
  split at h
  · cases h; exact ⟨‹_›, rfl⟩
  · cases h

theorem zero_append_idxField {imm : BitVec 8} (h : idxHighField imm = 0#3) : 0#3 ++ idxField imm = imm := by
  have hlow := toNat_idxField imm
  have hhigh := toNat_idxHighField imm
  rw [h] at hhigh
  apply BitVec.eq_of_toNat_eq
  rw [BitVec.toNat_append]
  simp at hhigh ⊢
  omega

theorem encode_of_decodeWord {w : CommandWord} {i : Instr} (h : decodeWord w = .ok i) : encode i = w := by
  rw [← commandWord_fields w]
  unfold decodeWord at h
  dsimp only at h
  split_ifs at h with hop hrsv h1 h2 h3 h4 h5 h6 hidx h7
  all_goals rw [not_ne_iff.1 hrsv]
  · cases h; rw [h1]; rfl
  · obtain ⟨himm, rfl⟩ := noOperand_ok h; rw [h2, himm]; rfl
  · obtain ⟨himm, rfl⟩ := noOperand_ok h; rw [h3, himm]; rfl
  · obtain ⟨himm, rfl⟩ := noOperand_ok h; rw [h4, himm]; rfl
  · obtain ⟨himm, rfl⟩ := noOperand_ok h; rw [h5, himm]; rfl
  · cases h; rw [h6, encode, zero_append_idxField hidx]
  · cases h; rw [h7]; rfl
  · obtain ⟨himm, rfl⟩ := noOperand_ok h
    have h8 : opField w = 0x8#4 := by bv_omega
    rw [h8, himm]; rfl

/-- An operation that passes the checks of R78 came as its own word, on its own port. -/
theorem decode_ok {port : Port} {w : CommandWord} {i : Instr} (h : decode port w = .ok i) :
    port = i.port ∧ w = encode i := by
  unfold decode at h
  split at h
  · cases h
  · rename_i j hj
    split at h
    · cases h; exact ⟨Eq.symm ‹_›, (encode_of_decodeWord hj).symm⟩
    · cases h

end Sys2Proof
end

section
/-!
PROOFS. What a step can do (20_memory.md R59), and what an operation can do, in named kinds.
-/
namespace Sys2Proof.Machine

/-- The kinds of step (R59), each with what the agents' list held: nothing happens, the poll in flight takes a
micro-step, a command word is turned away, an operation is executed on its port, or the host resets. The state a step
starts from is the one with `rest` of the list left. -/
inductive StepKind (s t : State) : Prop
  | pass (rest : List AgentAction) (ht : t = { s with inputs := rest })
  | pollStep (rest : List AgentAction) (hp : s.pollInFlight = true)
      (hin : ∀ w rest, s.inputs ≠ .command .p w :: rest)
      (h : { s with inputs := rest }.pollStep = .next t)
  | turnedAway (port : Port) (code : FaultCode) (rest : List AgentAction) (hb : s.busy port = false)
      (ht : t = { s with inputs := rest }.raiseFault port code)
  | exec (i : Instr) (rest : List AgentAction) (hin : s.inputs = .command i.port (encode i) :: rest)
      (hb : s.busy i.port = false) (h : Machine.exec i { s with inputs := rest } = .next t)
  | reset (rest : List AgentAction) (hin : s.inputs = .reset :: rest)
      (ht : t = { s with inputs := rest }.hostReset)

theorem step_kind {s t : State} (h : step s = .next t) : StepKind s t := by
  obtain ⟨-, -, rfl⟩ | ⟨hin, hp, hpoll⟩ | ⟨w, rest, hin, hp, hpoll⟩ | ⟨rest, -, -, rfl⟩ |
    ⟨rest, hin, hp, hpoll⟩ | ⟨port, w, rest, code, -, hb, -, rfl⟩ |
    ⟨port, w, rest, i, hin, hb, hdec, hexec⟩ | ⟨rest, hin, rfl⟩ := step_cases h
  · exact .pass t.inputs rfl
  · exact .pollStep s.inputs hp (by simp [hin]) hpoll
  · exact .pollStep s.inputs hp (by simp [hin]) hpoll
  · exact .pass rest rfl
  · exact .pollStep rest hp (by simp [hin]) hpoll
  · exact .turnedAway port code rest hb rfl
  · obtain ⟨rfl, rfl⟩ := decode_ok hdec
    exact .exec i rest hin hb hexec
  · exact .reset rest hin rfl

/-- What an operation can do: return a result and no more, fault on an empty buffer, store a pushed byte, hand out the
oldest byte, or run the framer, alone or for a poll that begins. -/
inductive ExecKind (i : Instr) (s t : State) : Prop
  | result (r : ResultWord) (ht : t = s.returned i.port r)
  | popEmpty (hi : i = .fifoPop) (ht : t = s.raiseFault .q .popEmpty)
  | push (b : Byte) (hi : i = .rxPush b) (hfull : s.isFull = false) (hlt : s.head.toNat < s.cap)
      (ht : t = { s with
        fifo := s.fifo.write s.head.toNat b
        head := s.advance s.head
        pResult := some 1#32 })
  | pop (hi : i = .fifoPop) (hb : s.HasByte (s.fifoByte s.tail.toNat))
      (ht : t = s.takeByte.returned .q (zext32 (s.fifoByte s.tail.toNat)))
  | framerStep (hi : i = .framerStep) (u : State) (o : StepOutcome) (hu : s.microStep = .ok (u, o))
      (ht : t = u.returned .q o.code)
  | framerPoll (hi : i = .framerPoll) (h : s.beginPoll.pollStep = .next t)

theorem exec_kind {i : Instr} {s t : State} (h : exec i s = .next t) : ExecKind i s t := by
  cases i with
  | rxPush b =>
    obtain ⟨-, rfl⟩ | ⟨hfull, hlt, rfl⟩ := execRxPush_next h
    · exact .result _ rfl
    · exact .push b rfl hfull hlt rfl
  | fifoPop =>
    obtain ⟨-, rfl⟩ | ⟨hne, hlt, rfl⟩ := execFifoPop_next h
    · exact .popEmpty rfl rfl
    · exact .pop rfl ⟨hne, hlt, rfl⟩ rfl
  | framerStep =>
    obtain ⟨u, o, hu, rfl⟩ := execFramerStep_next h
    exact .framerStep rfl u o hu rfl
  | framerPoll => exact .framerPoll rfl h
  | fifoAvail | frameRead _ | chanDecode _ | statusRead => cases h; exact .result _ rfl

end Sys2Proof.Machine
end

section
/-!
PROOFS. What a step does to the block itself, apart from what it leaves for the agents: the list of actions, the results
and whether a poll is in flight. No operation of the block reads these, so a step's effect is said without them.
-/
namespace Sys2Proof.Machine

/-- `t` is `s` but for the agents' side: the coming actions, the poll in flight and the results. -/
def State.SameBlock (s t : State) : Prop :=
  ∃ inputs inFlight pResult qResult,
    t = { s with inputs := inputs, pollInFlight := inFlight, pResult := pResult, qResult := qResult }

theorem State.SameBlock.trans {s t u : State} (h : s.SameBlock t) (h' : t.SameBlock u) : s.SameBlock u := by
  obtain ⟨_, _, _, _, rfl⟩ := h
  obtain ⟨_, _, _, _, rfl⟩ := h'
  exact ⟨_, _, _, _, rfl⟩

theorem State.sameBlock_inputs (s : State) (rest : List AgentAction) : s.SameBlock { s with inputs := rest } :=
  ⟨_, _, _, _, rfl⟩

theorem State.sameBlock_returned (s : State) (port : Port) (r : ResultWord) : s.SameBlock (s.returned port r) := by
  cases port <;> exact ⟨_, _, _, _, rfl⟩

theorem State.sameBlock_afterMicroStep (s : State) (o : StepOutcome) : s.SameBlock (s.afterMicroStep o) := by
  cases o <;> exact ⟨_, _, _, _, rfl⟩

theorem State.SameBlock.takeByte {s t : State} (h : s.SameBlock t) : s.takeByte.SameBlock t.takeByte := by
  obtain ⟨_, _, _, _, rfl⟩ := h
  exact ⟨_, _, _, _, rfl⟩

theorem State.SameBlock.hasByte {s t : State} {b : Byte} (h : s.SameBlock t) (hb : t.HasByte b) : s.HasByte b := by
  obtain ⟨_, _, _, _, rfl⟩ := h
  exact hb

theorem State.SameBlock.framerConsume {s t : State} (h : s.SameBlock t) (b : Byte) :
    (s.framerConsume b).1.SameBlock (t.framerConsume b).1 ∧ (t.framerConsume b).2 = (s.framerConsume b).2 := by
  obtain ⟨inputs, inFlight, pResult, qResult, rfl⟩ := h
  obtain hf | hf : s.fstate = .seekingHeader ∨ s.fstate = .accumulating := by cases s.fstate <;> simp
  · rw [State.framerConsume_seeking hf, State.framerConsume_seeking (by exact hf)]
    unfold State.seekHeader
    split_ifs <;> exact ⟨⟨_, _, _, _, rfl⟩, rfl⟩
  · rw [State.framerConsume_accumulating hf, State.framerConsume_accumulating (by exact hf)]
    have hacc : (State.storeAcc
        { s with inputs := inputs, pollInFlight := inFlight, pResult := pResult, qResult := qResult }
        s.pos.toNat b).accByte = (s.storeAcc s.pos.toNat b).accByte := rfl
    unfold State.accumulate
    dsimp only
    rw [hacc]
    split_ifs <;> exact ⟨⟨_, _, _, _, rfl⟩, rfl⟩

/-- What a micro-step does, told of a state `s` that differs from its own on the agents' side at most. -/
theorem State.SameBlock.microStep {s s' u : State} {o : StepOutcome} (h : s.SameBlock s')
    (hu : s'.microStep = .ok (u, o)) :
    (s.SameBlock u ∧ o = .empty) ∨
    ∃ b, s.HasByte b ∧ (s.takeByte.framerConsume b).1.SameBlock u ∧ o = (s.takeByte.framerConsume b).2.outcome := by
  obtain ⟨-, rfl, ho⟩ | ⟨b, hb, rfl, rfl⟩ := State.microStep_ok hu
  · exact .inl ⟨h, ho⟩
  · obtain ⟨hsame, hresult⟩ := h.takeByte.framerConsume b
    exact .inr ⟨b, h.hasByte hb, hsame, by rw [hresult]⟩

end Sys2Proof.Machine
end

section
/-!
PROOFS. The effect of a step on the block, with the action that has it. Every rule about what steps keep or change is
read off these six effects.
-/
namespace Sys2Proof.Machine

/-- What an accepted push does to the block (R100): the byte goes to slot `HEAD`, and `HEAD` advances. -/
def State.acceptByte (s : State) (b : Byte) : State :=
  { s with fifo := s.fifo.write s.head.toNat b, head := s.advance s.head }

/-- What a fault does to the block (R162): its code is recorded if none is. -/
def State.recordFault (s : State) (code : FaultCode) : State :=
  { s with fault := if s.fault = 0#4 then faultBits code else s.fault }

/-- The consumer's way to run the framer on a byte with outcome `r` (R126, R127), and what the step has then returned:
`FRAMER_STEP` its outcome, and a poll, at its issue or in flight, 1 on a frame. -/
inductive FramerRun (s t : State) (r : ConsumeResult) : Prop
  | step (rest : List AgentAction) (hin : s.inputs = .command .q (encode .framerStep) :: rest)
      (hp : s.pollInFlight = false) (ht : t.pollInFlight = false ∧ t.qResult = some r.outcome.code)
  | issue (rest : List AgentAction) (hin : s.inputs = .command .q (encode .framerPoll) :: rest)
      (hp : s.pollInFlight = false) (ht : r = .frame → t.pollInFlight = false ∧ t.qResult = some 1#32)
  | inFlight (hp : s.pollInFlight = true) (hin : ∀ w rest, s.inputs ≠ .command .p w :: rest)
      (ht : r = .frame → t.pollInFlight = false ∧ t.qResult = some 1#32)

/-- What a step does to the block, with the action that does it: nothing, record a fault, store a pushed byte (R100),
take the oldest byte (R102), run the framer on it (R126), or reset (R180). -/
inductive StepEffect (s t : State) : Prop
  | same (h : s.SameBlock t)
  | fault (code : FaultCode) (h : (s.recordFault code).SameBlock t)
  | push (b : Byte) (rest : List AgentAction) (hin : s.inputs = .command .p (encode (.rxPush b)) :: rest)
      (hfull : s.isFull = false) (hlt : s.head.toNat < s.cap) (h : (s.acceptByte b).SameBlock t)
  | pop (b : Byte) (rest : List AgentAction) (hin : s.inputs = .command .q (encode .fifoPop) :: rest)
      (hb : s.HasByte b) (h : s.takeByte.SameBlock t)
  | framer (b : Byte) (hb : s.HasByte b) (hrun : FramerRun s t (s.takeByte.framerConsume b).2)
      (h : (s.takeByte.framerConsume b).1.SameBlock t)
  | reset (rest : List AgentAction) (hin : s.inputs = .reset :: rest) (h : s.hostReset.SameBlock t)

theorem State.sameBlock_raiseFault (s : State) (port : Port) (code : FaultCode) :
    (s.recordFault code).SameBlock (s.raiseFault port code) :=
  State.sameBlock_returned _ port 0#32

/-- A micro-step of a poll: the FIFO is empty, or its oldest byte goes through the framer, and a frame ends the poll. -/
theorem State.SameBlock.pollStep {s s' t : State} (h : s.SameBlock s') (ht : s'.pollStep = .next t) :
    s.SameBlock t ∨
    ∃ b, s.HasByte b ∧ (s.takeByte.framerConsume b).1.SameBlock t ∧
      ((s.takeByte.framerConsume b).2 = .frame → t.pollInFlight = false ∧ t.qResult = some 1#32) := by
  obtain ⟨u, o, hu, rfl⟩ := State.pollStep_next ht
  obtain ⟨hsame, -⟩ | ⟨b, hb, hsame, rfl⟩ := h.microStep hu
  · exact .inl (hsame.trans (u.sameBlock_afterMicroStep o))
  · exact .inr ⟨b, hb, hsame.trans (u.sameBlock_afterMicroStep _), fun hr => by rw [hr]; exact ⟨rfl, rfl⟩⟩

theorem State.microStep_pollInFlight {s u : State} {o : StepOutcome} (h : s.microStep = .ok (u, o)) :
    u.pollInFlight = s.pollInFlight := by
  obtain ⟨-, rfl, -⟩ | ⟨b, -, rfl, -⟩ := State.microStep_ok h
  · rfl
  · simp

theorem State.microStep_qResult {s u : State} {o : StepOutcome} (h : s.microStep = .ok (u, o)) :
    u.qResult = s.qResult := by
  obtain ⟨-, rfl, -⟩ | ⟨b, -, rfl, -⟩ := State.microStep_ok h
  · rfl
  · simp

theorem exec_effect {s t : State} {i : Instr} {rest : List AgentAction}
    (hin : s.inputs = .command i.port (encode i) :: rest) (hbusy : s.busy i.port = false)
    (h : exec i { s with inputs := rest } = .next t) : StepEffect s t := by
  have hrest := s.sameBlock_inputs rest
  cases exec_kind h with
  | result r ht => subst ht; exact .same (hrest.trans (State.sameBlock_returned _ _ _))
  | popEmpty _ ht => subst ht; exact .fault .popEmpty ⟨_, _, _, _, rfl⟩
  | push b hi hfull hlt ht => subst hi ht; exact .push b rest hin hfull hlt ⟨_, _, _, _, rfl⟩
  | pop hi hb ht => subst hi ht; exact .pop _ rest hin hb ⟨_, _, _, _, rfl⟩
  | framerStep hi u o hu ht =>
    subst hi ht
    obtain ⟨hsame, -⟩ | ⟨b, hb, hsame, rfl⟩ := hrest.microStep hu
    · exact .same (hsame.trans (State.sameBlock_returned _ _ _))
    · refine .framer b hb (.step rest hin hbusy ⟨?_, rfl⟩) (hsame.trans (State.sameBlock_returned _ _ _))
      exact (State.microStep_pollInFlight hu).trans hbusy
  | framerPoll hi hpoll =>
    subst hi
    obtain hsame | ⟨b, hb, hsame, hframe⟩ := State.SameBlock.pollStep (s := s) ⟨_, _, _, _, rfl⟩ hpoll
    · exact .same hsame
    · exact .framer b hb (.issue rest hin hbusy hframe) hsame

theorem step_effect {s t : State} (h : step s = .next t) : StepEffect s t := by
  cases step_kind h with
  | pass rest ht => subst ht; exact .same (s.sameBlock_inputs rest)
  | pollStep rest hp hin hpoll =>
    obtain hsame | ⟨b, hb, hsame, hframe⟩ := (s.sameBlock_inputs rest).pollStep hpoll
    · exact .same hsame
    · exact .framer b hb (.inFlight hp hin hframe) hsame
  | turnedAway port code rest _ ht =>
    subst ht
    exact .fault code (State.SameBlock.trans ⟨_, _, _, _, rfl⟩ (State.sameBlock_raiseFault _ port code))
  | exec i rest hin hbusy hexec => exact exec_effect hin hbusy hexec
  | reset rest hin ht => subst ht; exact .reset rest hin ⟨_, _, _, _, rfl⟩

end Sys2Proof.Machine
end

section
/-!
PROOFS. The legal framer positions (10_state.md R29): the framer keeps them with every byte, and of all else a step does
only a reset touches the position.
-/
namespace Sys2Proof.Machine

theorem State.SameBlock.posLegal {s t : State} (h : s.SameBlock t) (hs : s.PosLegal) : t.PosLegal := by
  obtain ⟨_, _, _, _, rfl⟩ := h
  exact hs

theorem State.posLegal_of_seeking {s : State} (hf : s.fstate = .seekingHeader) (hp : s.pos.toNat ≤ 1) :
    s.PosLegal :=
  ⟨fun _ => hp, fun h => by simp [hf] at h⟩

theorem State.posLegal_of_accumulating {s : State} (hf : s.fstate = .accumulating) (hp : 2 ≤ s.pos.toNat) :
    s.PosLegal :=
  ⟨fun h => by simp [hf] at h, fun _ => ⟨hp, by have := s.pos.isLt; omega⟩⟩

/-- Below 31 the next position fits the five bits of `POS`. -/
theorem toNat_pos_succ {p : BitVec 5} (h : p.toNat + 1 < 32) : (p + 1#5).toNat = p.toNat + 1 := by
  rw [BitVec.toNat_add]
  exact Nat.mod_eq_of_lt h

theorem State.PosLegal.framerConsume {s : State} (h : s.PosLegal) (b : Byte) :
    (s.framerConsume b).1.PosLegal := by
  obtain ⟨hf, hc⟩ | ⟨hf, -, hc⟩ | ⟨-, -, -, hc⟩ | ⟨hf, hlt, hc⟩ | ⟨-, -, -, hc⟩ | ⟨-, -, -, hc⟩ :=
    s.framerConsume_cases b <;> rw [hc]
  · exact State.posLegal_of_seeking hf (by simp)
  · exact State.posLegal_of_seeking hf (by simp)
  · exact State.posLegal_of_accumulating rfl (by simp)
  · obtain ⟨h2, -⟩ := h.2 hf
    refine State.posLegal_of_accumulating hf ?_
    rw [State.setPos_pos, toNat_pos_succ hlt]
    omega
  · exact State.posLegal_of_seeking rfl (by simp)
  · exact State.posLegal_of_seeking rfl (by simp)

/-- Settles O41: by the effect of the step, of which only a byte through the framer and a reset move the position. -/
theorem positionStaysLegal : Obligations.PositionStaysLegal := by
  refine ⟨fun s t hs hstep => ?_, State.posLegal_of_seeking rfl (by decide), rfl⟩
  cases step_effect hstep with
  | same h | fault _ h | push _ _ _ _ _ h | pop _ _ _ _ h => exact h.posLegal hs
  | framer b _ _ h => exact h.posLegal (State.PosLegal.framerConsume (s := s.takeByte) hs b)
  | reset _ _ h => exact h.posLegal (State.posLegal_of_seeking rfl (by simp))

end Sys2Proof.Machine
end

section
/-!
PROOFS. The ring buffer as a queue (10_state.md R27, 20_memory.md R60): a push appends a byte, the consumer takes the
oldest one, and no step does anything else to the bytes held but a reset.
-/
namespace Sys2Proof.Machine

theorem State.SameBlock.contents {s t : State} (h : s.SameBlock t) : t.contents = s.contents := by
  obtain ⟨_, _, _, _, rfl⟩ := h
  rfl

theorem State.contents_hostReset (s : State) : s.hostReset.contents = [] :=
  (s.hostReset.contents_eq_nil_iff s.cap_pos s.cap_pos).2 rfl

theorem State.contents_acceptByte {s : State} (hs : s.Inv) (hfull : s.isFull = false) (b : Byte) :
    (s.acceptByte b).contents = s.contents ++ [b] := by
  have hne : (s.head.toNat + 1) % s.cap ≠ s.tail.toNat := fun h => by simp [s.isFull_iff.2 h] at hfull
  exact State.contents_push hs.head_lt hs.tail_lt hne rfl rfl rfl rfl rfl

theorem State.contents_takeByte {s : State} {b : Byte} (hs : s.Inv) (hb : s.HasByte b) :
    s.contents = b :: s.takeByte.contents := by
  obtain ⟨hne, -, rfl⟩ := hb
  exact State.contents_consume hs.head_lt hs.tail_lt hne rfl rfl rfl rfl rfl

/-- The framer does not touch the bytes held. -/
theorem State.contents_framerConsume (s : State) (b : Byte) :
    (s.framerConsume b).1.contents = s.contents :=
  State.contents_congr (by simp) (by simp) (by simp) fun k _ => by simp [State.fifoByte]

theorem State.hasByte_of_contents {s : State} {b : Byte} {bs : List Byte} (hs : s.Inv)
    (h : s.contents = b :: bs) : s.HasByte b := by
  have hne : s.head ≠ s.tail := fun he => by
    simp [(s.contents_eq_nil_iff hs.head_lt hs.tail_lt).2 he] at h
  have hhead := State.contents_takeByte hs ⟨hne, hs.tail_lt, rfl⟩
  rw [h, List.cons.injEq] at hhead
  exact ⟨hne, hs.tail_lt, hhead.1.symm⟩

theorem execRxPush_of_full {s : State} (b : Byte) (h : s.isFull = true) :
    exec (.rxPush b) s = .next (s.returned .p 0#32) := if_pos h

theorem execRxPush_of_free {s : State} (b : Byte) (h : s.isFull = false) (hlt : s.head.toNat < s.cap) :
    exec (.rxPush b) s = .next ((s.acceptByte b).returned .p 1#32) := by
  simp only [exec, execRxPush, h, s.writeSlot_of_lt b hlt]
  rfl

theorem execFifoPop_of_hasByte {s : State} {b : Byte} (h : s.HasByte b) :
    exec .fifoPop s = .next (s.takeByte.returned .q (zext32 b)) := by
  obtain ⟨hne, hlt, rfl⟩ := h
  have he : s.isEmpty = false := by simp [State.isEmpty, hne]
  simp only [exec, execFifoPop, he, s.readSlot_of_lt hlt]
  rfl

theorem execFramerStep_of_hasByte {s : State} {b : Byte} (h : s.HasByte b) :
    exec .framerStep s = .next ((s.takeByte.framerConsume b).1.returned .q
      (s.takeByte.framerConsume b).2.outcome.code) :=
  execFramerStep_of_ok (State.microStep_of_hasByte h)

/-- Settles O21: by whether the buffer is full. -/
theorem rxPushAppendsToQueue : Obligations.RxPushAppendsToQueue := by
  intro s b hs
  have hfull := s.isFull_iff_count hs.head_lt hs.tail_lt
  refine ⟨s.length_contents, by have := s.count_lt; omega, ?_⟩
  cases hf : s.isFull with
  | true =>
    have hcount := hfull.1 hf
    exact ⟨_, execRxPush_of_full b hf, fun h => by omega,
      fun _ => ⟨(s.sameBlock_returned _ _).contents, rfl⟩⟩
  | false =>
    have hcount : s.count ≠ s.cap - 1 := fun h => by simp [hfull.2 h] at hf
    exact ⟨_, execRxPush_of_free b hf hs.head_lt,
      fun _ => ⟨(State.sameBlock_returned _ _ _).contents.trans (State.contents_acceptByte hs hf b), rfl⟩,
      fun h => absurd h hcount⟩

/-- Settles O22: the byte at the front of the bytes held is the one in slot `TAIL`, which both operations take. -/
theorem consumerTakesOldest : Obligations.ConsumerTakesOldest := by
  intro s b bs hs hbytes
  have hb := State.hasByte_of_contents hs hbytes
  have hrest : s.takeByte.contents = bs := by
    have htake := State.contents_takeByte hs hb
    rw [hbytes, List.cons.injEq] at htake
    exact htake.2.symm
  refine ⟨⟨_, execFifoPop_of_hasByte hb, ?_, rfl⟩, ⟨_, execFramerStep_of_hasByte hb, ?_⟩⟩
  · exact (State.sameBlock_returned _ _ _).contents.trans hrest
  · exact (State.sameBlock_returned _ _ _).contents.trans ((State.contents_framerConsume _ b).trans hrest)

/-- The steps of the consumer that may take a byte. -/
theorem FramerRun.consumer {s t : State} {r : ConsumeResult} (h : FramerRun s t r) :
    (s.pollInFlight = true ∧ ∀ w rest, s.inputs ≠ .command .p w :: rest) ∨
      ∃ i rest, s.inputs = .command .q (encode i) :: rest ∧ i ∈ [Instr.fifoPop, .framerStep, .framerPoll] := by
  cases h with
  | step rest hin _ _ => exact .inr ⟨_, rest, hin, by simp⟩
  | issue rest hin _ _ => exact .inr ⟨_, rest, hin, by simp⟩
  | inFlight hp hin _ => exact .inl ⟨hp, hin⟩

/-- Settles O44: by the effect of the step. -/
theorem stepActsAsQueue : Obligations.StepActsAsQueue := by
  intro s t hs hstep
  cases step_effect hstep with
  | same h => exact .inl h.contents
  | fault _ h => exact .inl h.contents
  | push b rest hin hfull _ h =>
    exact .inr (.inl ⟨b, rest, hin, h.contents.trans (State.contents_acceptByte hs hfull b)⟩)
  | pop b rest hin hb h =>
    refine .inr (.inr (.inl ⟨b, ?_, .inr ⟨_, rest, hin, by simp⟩⟩))
    rw [h.contents, State.contents_takeByte hs hb]
  | framer b hb hrun h =>
    refine .inr (.inr (.inl ⟨b, ?_, hrun.consumer⟩))
    rw [h.contents, State.contents_framerConsume, State.contents_takeByte hs hb]
  | reset rest hin h => exact .inr (.inr (.inr ⟨rest, hin, h.contents.trans s.contents_hostReset⟩))

end Sys2Proof.Machine
end

section
/-!
PROOFS. The frame register changes only when the framer emits (10_state.md R31, R32; 41_framer.md R124).
-/
namespace Sys2Proof.Machine

/-- A byte leaves the frame register, or completes a frame that is emitted (R124). -/
theorem State.framerConsume_emits_or_keeps (s : State) (b : Byte) :
    ((s.framerConsume b).1.frame = s.frame ∧ (s.framerConsume b).1.frameValid = s.frameValid) ∨
    (s.fstate = .accumulating ∧ s.pos.toNat = 31 ∧ s.framerConsume b = ((s.storeAcc 31 b).emit, .frame)) := by
  obtain ⟨-, h⟩ | ⟨-, -, h⟩ | ⟨-, -, -, h⟩ | ⟨-, -, h⟩ | ⟨-, -, -, h⟩ | ⟨hf, hp, -, h⟩ := s.framerConsume_cases b
  iterate 5 exact .inl (by rw [h]; exact ⟨rfl, rfl⟩)
  exact .inr ⟨hf, hp, h⟩

theorem State.SameBlock.frame {s t : State} (h : s.SameBlock t) :
    t.frame = s.frame ∧ t.frameValid = s.frameValid := by
  obtain ⟨_, _, _, _, rfl⟩ := h
  exact ⟨rfl, rfl⟩

/-- What has returned once the framer has emitted, and who ran it. -/
theorem FramerRun.returned_of_frame {s t : State} (h : FramerRun s t .frame) :
    t.pollInFlight = false ∧
      ((s.pollInFlight = false ∧ t.qResult = some 2#32 ∧
          ∃ rest, s.inputs = .command .q (encode .framerStep) :: rest) ∨
       (s.pollInFlight = false ∧ t.qResult = some 1#32 ∧
          ∃ rest, s.inputs = .command .q (encode .framerPoll) :: rest) ∨
       (s.pollInFlight = true ∧ t.qResult = some 1#32 ∧ ∀ w rest, s.inputs ≠ .command .p w :: rest)) := by
  cases h with
  | step rest hin hp ht => exact ⟨ht.1, .inl ⟨hp, ht.2, rest, hin⟩⟩
  | issue rest hin hp ht => exact ⟨(ht rfl).1, .inr (.inl ⟨hp, (ht rfl).2, rest, hin⟩)⟩
  | inFlight hp hin ht => exact ⟨(ht rfl).1, .inr (.inr ⟨hp, (ht rfl).2, hin⟩)⟩

/-- Settles O47: by the effect of the step, of which only a byte through the framer can emit. -/
theorem frameChangesOnlyOnEmit : Obligations.FrameChangesOnlyOnEmit := by
  intro s t hstep
  cases step_effect hstep with
  | same h | fault _ h | push _ _ _ _ _ h | pop _ _ _ _ h => exact .inr (.inl h.frame)
  | reset rest hin _ => exact .inl ⟨rest, hin⟩
  | framer b _ hrun h =>
    obtain ⟨hframe, hvalid⟩ | ⟨hf, hp, hc⟩ := s.takeByte.framerConsume_emits_or_keeps b
    · exact .inr (.inl ⟨h.frame.1.trans hframe, h.frame.2.trans hvalid⟩)
    · rw [hc] at hrun h
      have hreturned := hrun.returned_of_frame
      obtain ⟨_, _, _, _, rfl⟩ := h
      exact .inr (.inr ⟨hf, BitVec.eq_of_toNat_eq hp, rfl,
        fun i hi => State.frameByte_emit (s.takeByte.storeAcc 31 b) hi, rfl, rfl, hreturned⟩)

end Sys2Proof.Machine
end

section
/-!
PROOFS. The fault code is sticky (10_state.md R33, 60_exceptions.md R162).
-/
namespace Sys2Proof.Machine

theorem State.SameBlock.fault {s t : State} (h : s.SameBlock t) : t.fault = s.fault := by
  obtain ⟨_, _, _, _, rfl⟩ := h
  rfl

theorem faultBits_mem (code : FaultCode) : faultBits code = 1#4 ∨ faultBits code = 2#4 ∨ faultBits code = 3#4 := by
  cases code <;> simp [faultBits]

theorem State.recordFault_fault (s : State) (code : FaultCode) :
    (s.recordFault code).fault = if s.fault = 0#4 then faultBits code else s.fault := rfl

/-- Settles O48: by the effect of the step. -/
theorem faultIsSticky : Obligations.FaultIsSticky := by
  refine ⟨fun s t hstep => ?_, rfl⟩
  cases step_effect hstep with
  | same h | push _ _ _ _ _ h | pop _ _ _ _ h => exact .inr (.inl h.fault)
  | framer b _ _ h => exact .inr (.inl (h.fault.trans (by simp)))
  | reset rest hin h => exact .inl ⟨rest, hin, h.fault⟩
  | fault code h =>
    rw [h.fault, State.recordFault_fault]
    split
    · exact .inr (.inr ⟨‹_›, faultBits_mem code⟩)
    · exact .inr (.inl rfl)

end Sys2Proof.Machine
end

section
/-!
PROOFS. The invariant of the block (10_state.md R25, R27 to R30; 41_framer.md R130): each effect of a step keeps it.
-/
namespace Sys2Proof.Machine

/-- Of the agents' side the invariant reads only that a poll in flight has no result. -/
theorem State.SameBlock.inv {s t : State} (h : s.SameBlock t) (hs : s.Inv)
    (hpoll : t.pollInFlight = true → t.qResult = none) : t.Inv := by
  obtain ⟨_, _, _, _, rfl⟩ := h
  exact { hs with poll_no_result := hpoll }

theorem toNat_faultBits_le (code : FaultCode) : (faultBits code).toNat ≤ 3 := by
  cases code <;> decide

theorem State.Inv.recordFault {s : State} (hs : s.Inv) (code : FaultCode) :
    (s.recordFault code).Inv := by
  refine { hs with fault_known := ?_ }
  rw [State.recordFault_fault]
  split
  · exact toNat_faultBits_le code
  · exact hs.fault_known

theorem State.Inv.acceptByte {s : State} (hs : s.Inv) (hfull : s.isFull = false) (b : Byte) :
    (s.acceptByte b).Inv := by
  have hne : (s.head.toNat + 1) % s.cap ≠ s.tail.toNat := fun h => by simp [s.isFull_iff.2 h] at hfull
  refine { hs with
    head_lt := s.advance_lt s.head
    fifo_wf := Memory.wf_write b hs.fifo_wf hs.head_lt
    fifo_written := fun k hk => ?_ }
  have hcount : (s.acceptByte b).count = s.count + 1 :=
    State.count_push hs.head_lt hs.tail_lt hne rfl rfl rfl
  rw [hcount] at hk
  change ((s.fifo.write s.head.toNat b).read? ((s.tail.toNat + k) % s.cap)).isSome = true
  obtain hlt | rfl := Nat.lt_succ_iff_lt_or_eq.1 hk
  · simp [Memory.isSome_read?_write, hs.fifo_written k hlt]
  · simp [s.slot_count hs.head_lt hs.tail_lt]

theorem State.Inv.takeByte {s : State} {b : Byte} (hs : s.Inv) (hb : s.HasByte b) : s.takeByte.Inv := by
  refine { hs with tail_lt := s.advance_lt s.tail, fifo_written := fun k hk => ?_ }
  have hcount : s.count = s.takeByte.count + 1 :=
    State.count_consume hs.head_lt hs.tail_lt hb.1 rfl rfl rfl
  have hslot : (s.takeByte.tail.toNat + k) % s.takeByte.cap = (s.tail.toNat + (k + 1)) % s.cap := by
    rw [State.takeByte_tail, State.toNat_advance, State.takeByte_cap, Nat.mod_add_mod]
    congr 1
    omega
  rw [hslot]
  exact hs.fifo_written (k + 1) (by omega)

theorem State.inv_hostReset (s : State) : s.hostReset.Inv where
  head_lt := s.cap_pos
  tail_lt := s.cap_pos
  fifo_wf := rfl
  accbuf_wf := rfl
  frame_wf := rfl
  fifo_written := fun k hk => by
    rw [(s.hostReset.count_eq_zero_iff s.cap_pos s.cap_pos).2 rfl] at hk
    omega
  pos_legal := State.posLegal_of_seeking rfl (by simp)
  acc_written := fun i hi => by simp at hi
  acc_hdr0 := fun h => by simp at h
  acc_hdr1 := fun h => by simp at h
  frame_unwritten := fun _ => rfl
  frame_written := fun h => by simp at h
  frame_hdr := fun h => by simp at h
  frame_scan := fun h => by simp at h
  fault_known := by simp
  poll_no_result := fun h => by simp at h

/-- A store at index `n` writes `ACCBUF` up to and with `n`, when it was written up to there. -/
theorem State.written_storeAcc {s : State} {n : Nat} (b : Byte)
    (h : ∀ i < n, (s.accbuf.read? i).isSome = true) :
    ∀ i < n + 1, ((s.storeAcc n b).accbuf.read? i).isSome = true := by
  intro i hi
  obtain hlt | rfl := Nat.lt_succ_iff_lt_or_eq.1 hi
  · simp [Memory.isSome_read?_write, h i hlt]
  · simp

/-- A framer that seeks at position 0 asks nothing of `ACCBUF` but its form. -/
theorem State.Inv.seekFromStart {s : State} (hs : s.Inv) {m : Memory} (hm : m.wf Config.frameLen = true) :
    State.Inv { s with accbuf := m, fstate := .seekingHeader, pos := 0#5 } :=
  { hs with
    accbuf_wf := hm
    pos_legal := State.posLegal_of_seeking rfl (by simp)
    acc_written := fun i hi => by simp at hi
    acc_hdr0 := fun h => by simp at h
    acc_hdr1 := fun h => by simp at h }

/-- The emitted frame is a valid one (R130): it is the candidate, whose header the working buffer holds and whose scan
found no embedded header. -/
theorem State.Inv.emit {s : State} {b : Byte} (hs : s.Inv) (hp : s.pos.toNat = 31)
    (hscan : ¬ HasEmbeddedHeader (s.candidate b)) : (s.storeAcc 31 b).emit.Inv := by
  have hbyte : ∀ i < 32, (s.storeAcc 31 b).emit.frameByte i = s.candidate b i := fun i hi => by
    rw [State.frameByte_emit _ hi, State.accByte_storeAcc_last]
  refine { hs.seekFromStart (Memory.wf_write b hs.accbuf_wf (by decide)) with
    frame_wf := Memory.wf_ofBytes (by simp)
    frame_unwritten := fun h => by simp at h
    frame_written := fun _ i hi => by simp [Memory.read?_ofBytes, hi]
    frame_hdr := fun _ => ⟨?_, ?_⟩
    frame_scan := fun _ h => hscan ((HasEmbeddedHeader_congr hbyte).1 h) }
  · exact (hbyte 0 (by omega)).trans (hs.acc_hdr0 (by omega))
  · exact (hbyte 1 (by omega)).trans (hs.acc_hdr1 (by omega))

theorem State.Inv.framerConsume {s : State} (hs : s.Inv) (b : Byte) : (s.framerConsume b).1.Inv := by
  have hlegal := hs.pos_legal.framerConsume b
  obtain ⟨hf, hc⟩ | ⟨hf, hb, hc⟩ | ⟨hf, hp, hb, hc⟩ | ⟨hf, hp, hc⟩ | ⟨hf, hp, -, hc⟩ | ⟨hf, hp, hscan, hc⟩ :=
    s.framerConsume_cases b <;> rw [hc] at hlegal ⊢
  · exact { hs.seekFromStart hs.accbuf_wf with pos_legal := hlegal }
  · exact { hs with
      pos_legal := hlegal
      accbuf_wf := Memory.wf_write b hs.accbuf_wf (by decide)
      acc_written := State.written_storeAcc (n := 0) b (by simp)
      acc_hdr0 := fun _ => by simp [hb]
      acc_hdr1 := fun h => by simp at h }
  · have hpos : 1 ≤ s.pos.toNat := Nat.pos_of_ne_zero fun h => hp (BitVec.eq_of_toNat_eq h)
    exact { hs with
      pos_legal := hlegal
      accbuf_wf := Memory.wf_write b hs.accbuf_wf (by decide)
      acc_written := State.written_storeAcc (n := 1) b fun i hi => hs.acc_written i (by omega)
      acc_hdr0 := fun _ => by simp [hs.acc_hdr0 hpos]
      acc_hdr1 := fun _ => by simp [hb] }
  · obtain ⟨h2, -⟩ := hs.pos_legal.2 hf
    have hnext := toNat_pos_succ hp
    exact { hs with
      pos_legal := hlegal
      accbuf_wf := Memory.wf_write b hs.accbuf_wf s.pos.isLt
      acc_written := by
        rw [State.setPos_pos, hnext]
        exact State.written_storeAcc b hs.acc_written
      acc_hdr0 := fun _ => by
        simp [show 0 ≠ s.pos.toNat by omega, hs.acc_hdr0 (by omega)]
      acc_hdr1 := fun _ => by
        simp [show 1 ≠ s.pos.toNat by omega, hs.acc_hdr1 (by omega)] }
  · exact hs.seekFromStart (Memory.wf_write b hs.accbuf_wf (by decide))
  · exact hs.emit hp hscan

/-- What a poll's micro-step leaves: the poll has ended, or is in flight with its result still to come. -/
theorem State.pollStep_no_result {s t : State} (hs : s.qResult = none) (h : s.pollStep = .next t) :
    t.pollInFlight = true → t.qResult = none := by
  obtain ⟨u, o, hu, rfl⟩ := State.pollStep_next h
  cases o with
  | empty | frame => exact fun hp => by simp [State.afterMicroStep] at hp
  | consumed => exact fun _ => (State.microStep_qResult hu).trans hs

theorem exec_no_result {i : Instr} {s t : State} (hs : s.pollInFlight = true → s.qResult = none)
    (hbusy : s.busy i.port = false) (h : exec i s = .next t) : t.pollInFlight = true → t.qResult = none := by
  have hq : i.port = .q → s.pollInFlight = false := fun hport => by rwa [hport] at hbusy
  cases exec_kind h with
  | result r ht =>
    subst ht
    cases hport : i.port with
    | p => exact hs
    | q => exact fun hp => by simp [hq hport] at hp
  | push b _ _ _ ht => subst ht; exact hs
  | popEmpty hi ht => subst hi ht; exact fun hp => by simp [hq rfl] at hp
  | pop hi _ ht => subst hi ht; exact fun hp => by simp [hq rfl] at hp
  | framerStep hi u o hu ht =>
    subst hi ht
    exact fun hp => by simp [State.microStep_pollInFlight hu, hq rfl] at hp
  | framerPoll _ hpoll => exact State.pollStep_no_result (s := s.beginPoll) rfl hpoll

/-- A poll in flight has no result (R38): the Q port returns none while it is busy, and a poll begins with none. -/
theorem step_no_result {s t : State} (hs : s.pollInFlight = true → s.qResult = none)
    (h : step s = .next t) : t.pollInFlight = true → t.qResult = none := by
  cases step_kind h with
  | pass rest ht => subst ht; exact hs
  | pollStep rest hp _ hpoll => exact State.pollStep_no_result (s := { s with inputs := rest }) (hs hp) hpoll
  | turnedAway port code rest hbusy ht =>
    subst ht
    cases port with
    | p => exact hs
    | q => exact fun hp => by simp [show s.pollInFlight = false from hbusy] at hp
  | exec i rest _ hbusy hexec => exact exec_no_result (s := { s with inputs := rest }) hs hbusy hexec
  | reset rest _ ht => subst ht; exact fun hp => by simp at hp

/-- Settles O42: by the effect of the step. -/
theorem stepKeepsInvariant : Obligations.StepKeepsInvariant := by
  intro s t hs hstep
  have hpoll := step_no_result hs.poll_no_result hstep
  cases step_effect hstep with
  | same h => exact h.inv hs hpoll
  | fault code h => exact h.inv (hs.recordFault code) hpoll
  | push b _ _ hfull _ h => exact h.inv (hs.acceptByte hfull b) hpoll
  | pop _ _ _ hb h => exact h.inv (hs.takeByte hb) hpoll
  | framer b hb _ h => exact h.inv ((hs.takeByte hb).framerConsume b) hpoll
  | reset _ _ h => exact h.inv s.inv_hostReset hpoll

end Sys2Proof.Machine
end

section
/-!
PROOFS. What the framer does depends on its own state and the byte alone (41_framer.md R129; 10_state.md R30).
-/
namespace Sys2Proof.Machine

/-- Two framers stand alike: in state, in position, and in the bytes stored so far. -/
def State.FramerAgrees (s₁ s₂ : State) : Prop :=
  s₁.fstate = s₂.fstate ∧ s₁.pos = s₂.pos ∧ ∀ i < s₁.pos.toNat, s₁.accByte i = s₂.accByte i

/-- Storing one byte in both, right after the bytes that agree. -/
theorem State.accByte_storeAcc_agree {s₁ s₂ : State} {n : Nat} (b : Byte)
    (h : ∀ i < n, s₁.accByte i = s₂.accByte i) :
    ∀ i < n + 1, (s₁.storeAcc n b).accByte i = (s₂.storeAcc n b).accByte i := by
  intro i hi
  rw [State.accByte_storeAcc, State.accByte_storeAcc]
  split
  · rfl
  · exact h i (by omega)

theorem State.framerAgrees_start {s₁ s₂ : State} (hf : s₁.fstate = s₂.fstate) (h₁ : s₁.pos = 0#5)
    (h₂ : s₂.pos = 0#5) : s₁.FramerAgrees s₂ :=
  ⟨hf, h₁.trans h₂.symm, fun i hi => by simp [h₁] at hi⟩

theorem State.FramerAgrees.seekHeader {s₁ s₂ : State} (h : s₁.FramerAgrees s₂) (b : Byte) :
    (s₁.seekHeader b).FramerAgrees (s₂.seekHeader b) := by
  obtain ⟨hf, hp, hacc⟩ := h
  unfold State.seekHeader
  rw [← hp]
  have hstart : (s₁.setPos 0#5).FramerAgrees (s₂.setPos 0#5) := State.framerAgrees_start hf rfl rfl
  have hfirst : ((s₁.storeAcc 0 b).setPos 1#5).FramerAgrees ((s₂.storeAcc 0 b).setPos 1#5) :=
    ⟨hf, rfl, State.accByte_storeAcc_agree (n := 0) b (by simp)⟩
  split_ifs with hzero
  · exact hfirst
  · exact hstart
  · have hpos : 1 ≤ s₁.pos.toNat := Nat.pos_of_ne_zero fun h => hzero (BitVec.eq_of_toNat_eq h)
    exact ⟨rfl, rfl, State.accByte_storeAcc_agree (n := 1) b fun i hi => hacc i (by omega)⟩
  · exact hfirst
  · exact hstart

theorem State.FramerAgrees.accumulate {s₁ s₂ : State} (h : s₁.FramerAgrees s₂) (b : Byte) :
    (s₁.accumulate b).1.FramerAgrees (s₂.accumulate b).1 ∧ (s₁.accumulate b).2 = (s₂.accumulate b).2 ∧
      ((s₁.accumulate b).2 = .frame →
        ∀ i < 32, (s₁.accumulate b).1.frameByte i = (s₂.accumulate b).1.frameByte i) := by
  obtain ⟨hf, hp, hacc⟩ := h
  have hstored := State.accByte_storeAcc_agree b hacc
  unfold State.accumulate
  dsimp only
  rw [← hp]
  by_cases hlt : s₁.pos.toNat + 1 < Config.frameLen
  · rw [if_pos hlt, if_pos hlt]
    refine ⟨⟨hf, rfl, ?_⟩, rfl, fun h => by simp at h⟩
    rw [State.setPos_pos, toNat_pos_succ hlt]
    exact hstored
  · have hall : ∀ i < 32, (s₁.storeAcc s₁.pos.toNat b).accByte i = (s₂.storeAcc s₁.pos.toNat b).accByte i :=
      fun i hi => hstored i (hi.trans_le (Nat.le_of_not_lt hlt))
    have hscan : embeddedHeader (s₁.storeAcc s₁.pos.toNat b).accByte =
        embeddedHeader (s₂.storeAcc s₁.pos.toNat b).accByte := by
      rw [Bool.eq_iff_iff, embeddedHeader_iff, embeddedHeader_iff]
      exact HasEmbeddedHeader_congr hall
    rw [if_neg hlt, if_neg hlt, ← hscan]
    split
    · exact ⟨State.framerAgrees_start rfl rfl rfl, rfl, fun h => by simp at h⟩
    · refine ⟨State.framerAgrees_start rfl rfl rfl, rfl, fun _ i hi => ?_⟩
      rw [State.frameByte_emit _ hi, State.frameByte_emit _ hi, hall i hi]

theorem State.FramerAgrees.framerConsume {s₁ s₂ : State} (h : s₁.FramerAgrees s₂) (b : Byte) :
    (s₁.framerConsume b).1.FramerAgrees (s₂.framerConsume b).1 ∧
      (s₁.framerConsume b).2 = (s₂.framerConsume b).2 ∧
      ((s₁.framerConsume b).2 = .frame →
        ∀ i < 32, (s₁.framerConsume b).1.frameByte i = (s₂.framerConsume b).1.frameByte i) := by
  cases hf : s₁.fstate with
  | seekingHeader =>
    rw [State.framerConsume_seeking hf, State.framerConsume_seeking (h.1.symm.trans hf)]
    exact ⟨h.seekHeader b, rfl, fun h => by simp at h⟩
  | accumulating =>
    rw [State.framerConsume_accumulating hf, State.framerConsume_accumulating (h.1.symm.trans hf)]
    exact h.accumulate b

/-- The result word tells a frame from a byte consumed. -/
theorem ConsumeResult.eq_frame_of_code {r : ConsumeResult} (h : some r.outcome.code = some 2#32) : r = .frame := by
  cases r with
  | frame => rfl
  | consumed => simp [ConsumeResult.outcome, StepOutcome.code] at h

/-- Settles O35: framers that agree still agree after the same byte, and the operation adds only the result. -/
theorem framerDependsOnlyOnBytes : Obligations.FramerDependsOnlyOnBytes := by
  intro s₁ s₂ t₁ t₂ b hb₁ hb₂ hf hp hacc h₁ h₂
  rw [execFramerStep_of_hasByte hb₁] at h₁
  rw [execFramerStep_of_hasByte hb₂] at h₂
  cases h₁
  cases h₂
  have hagree : s₁.takeByte.FramerAgrees s₂.takeByte := ⟨hf, hp, hacc⟩
  obtain ⟨⟨hf', hp', hacc'⟩, hresult, hframe⟩ := hagree.framerConsume b
  exact ⟨congrArg (fun r => some (ConsumeResult.outcome r).code) hresult, hf', hp', hacc',
    fun h => hframe (ConsumeResult.eq_frame_of_code h)⟩

end Sys2Proof.Machine
end

section
/-!
PROOFS. The status word field by field (10_state.md R36, 42_frame_readout.md R142).
-/
namespace Sys2Proof.Machine

/-- A field read at its own place. -/
theorem extractLsb'_statusField {w : Nat} (v : BitVec w) {lo : Nat} (h : lo + w ≤ 32) :
    (statusField v lo).extractLsb' lo w = v := by
  apply BitVec.eq_of_getLsbD_eq
  intro i hi
  rw [BitVec.getLsbD_extractLsb', statusField, BitVec.getLsbD_shiftLeft, BitVec.getLsbD_setWidth]
  simp [show lo + i < 32 by omega, show i < 32 by omega, hi]

/-- A field read in a place that it does not reach. -/
theorem extractLsb'_statusField_of_disjoint {w : Nat} (v : BitVec w) {lo lo' w' : Nat}
    (h : lo + w ≤ lo' ∨ lo' + w' ≤ lo) : (statusField v lo).extractLsb' lo' w' = 0#w' := by
  apply BitVec.eq_of_getLsbD_eq
  intro i hi
  rw [BitVec.getLsbD_extractLsb', statusField, BitVec.getLsbD_shiftLeft, BitVec.getLsbD_setWidth]
  obtain h | h := h
  · simp [BitVec.getLsbD_of_ge v (lo' + i - lo) (by omega)]
  · simp [show lo' + i < lo by omega]

/-- The fields of R36; those of one bit hold a Boolean. -/
theorem State.statusWord_fields (s : State) :
    s.statusWord.extractLsb' 0 8 = s.head ∧ s.statusWord.extractLsb' 8 8 = s.tail ∧
    s.statusWord.extractLsb' 16 5 = s.pos ∧ s.statusWord.extractLsb' 21 3 = 0#3 ∧
    s.statusWord.extractLsb' 24 1 = BitVec.ofBool s.fstate.bit ∧
    s.statusWord.extractLsb' 25 1 = BitVec.ofBool s.frameValid ∧
    s.statusWord.extractLsb' 26 1 = BitVec.ofBool s.avail ∧
    s.statusWord.extractLsb' 27 1 = BitVec.ofBool s.isFull ∧ s.statusWord.extractLsb' 28 4 = s.fault := by
  simp (disch := decide) only [State.statusWord, BitVec.extractLsb'_or, extractLsb'_statusField,
    extractLsb'_statusField_of_disjoint, BitVec.zero_or, BitVec.or_zero, and_self]

theorem getLsbD_of_extractLsb'_eq_ofBool {w : ResultWord} {i : Nat} {b : Bool}
    (h : w.extractLsb' i 1 = BitVec.ofBool b) : w.getLsbD i = b := by
  have hbit := congrArg (BitVec.getLsbD · 0) h
  simpa using hbit

theorem FramerState.bit_eq_decide (f : FramerState) : f.bit = decide (f = .accumulating) := by
  cases f <;> rfl

theorem State.avail_eq_decide (s : State) : s.avail = decide (s.head ≠ s.tail) := by
  rw [Bool.eq_iff_iff, decide_eq_true_iff, State.avail, Bool.not_eq_true', ← Bool.not_eq_true, s.isEmpty_iff]

theorem State.isFull_eq_decide (s : State) :
    s.isFull = decide ((s.head.toNat + 1) % s.cap = s.tail.toNat) := by
  rw [Bool.eq_iff_iff, decide_eq_true_iff, s.isFull_iff]

/-- Settles O39: each field is read back at the place where the status word puts it. -/
theorem statusWordFields : Obligations.StatusWordFields := by
  refine ⟨fun s => ⟨s.statusWord, rfl, ?_⟩, rfl⟩
  obtain ⟨hhead, htail, hpos, hzero, hfstate, hvalid, havail, hfull, hfault⟩ := s.statusWord_fields
  refine ⟨hhead, htail, hpos, hzero, ?_, ?_, ?_, ?_, hfault⟩
  · rw [getLsbD_of_extractLsb'_eq_ofBool hfstate, FramerState.bit_eq_decide]
  · exact getLsbD_of_extractLsb'_eq_ofBool hvalid
  · rw [getLsbD_of_extractLsb'_eq_ofBool havail, State.avail_eq_decide]
  · rw [getLsbD_of_extractLsb'_eq_ofBool hfull, State.isFull_eq_decide]

end Sys2Proof.Machine
end

section
/-!
PROOFS. Each index of the ring buffer has one writer (20_memory.md R61).
-/
namespace Sys2Proof.Machine

theorem State.SameBlock.head {s t : State} (h : s.SameBlock t) : t.head = s.head := by
  obtain ⟨_, _, _, _, rfl⟩ := h
  rfl

theorem State.SameBlock.tail {s t : State} (h : s.SameBlock t) : t.tail = s.tail := by
  obtain ⟨_, _, _, _, rfl⟩ := h
  rfl

/-- Settles O45: by the effect of the step. Only a push and a reset move `HEAD`; only a pop, a byte through the framer
and a reset move `TAIL`. -/
theorem singleWriterPerIndex : Obligations.SingleWriterPerIndex := by
  intro s t hstep
  cases step_effect hstep with
  | same h | fault _ h => exact ⟨fun hne => absurd h.head hne, fun hne => absurd h.tail hne⟩
  | push b rest hin _ _ h => exact ⟨fun _ => .inr ⟨b, rest, hin⟩, fun hne => absurd h.tail hne⟩
  | pop b rest hin _ h =>
    exact ⟨fun hne => absurd h.head hne, fun _ => .inr (.inr ⟨_, rest, hin, by simp⟩)⟩
  | framer b _ hrun h =>
    have hhead : t.head = s.head := h.head.trans (by simp)
    exact ⟨fun hne => absurd hhead hne, fun _ => .inr hrun.consumer⟩
  | reset rest hin _ => exact ⟨fun _ => .inl ⟨rest, hin⟩, fun _ => .inl ⟨rest, hin⟩⟩

end Sys2Proof.Machine
end

section
/-!
PROOFS. Runs go on (20_memory.md R59, 40_receiver_fifo.md R104): nothing stops while both indices name slots (10_state.md
R27; log 8), and the invariant, which says so, holds again after every step.
-/
namespace Sys2Proof.Machine

theorem State.pollStep_of_tail_lt {s : State} (ht : s.tail.toNat < s.cap) : ∃ t, s.pollStep = .next t := by
  obtain ⟨u, o, hu⟩ := State.microStep_ok_of_lt (.inr ht)
  exact ⟨_, State.pollStep_of_ok hu⟩

theorem execFifoPop_of_empty {s : State} (h : s.head = s.tail) :
    exec .fifoPop s = .next (s.raiseFault .q .popEmpty) := if_pos (s.isEmpty_iff.2 h)

theorem exec_of_indices_lt {s : State} (hh : s.head.toNat < s.cap) (ht : s.tail.toNat < s.cap) (i : Instr) :
    ∃ t, exec i s = .next t := by
  cases i with
  | rxPush b =>
    cases hfull : s.isFull with
    | true => exact ⟨_, execRxPush_of_full b hfull⟩
    | false => exact ⟨_, execRxPush_of_free b hfull hh⟩
  | fifoPop =>
    by_cases he : s.head = s.tail
    · exact ⟨_, execFifoPop_of_empty he⟩
    · exact ⟨_, execFifoPop_of_hasByte ⟨he, ht, rfl⟩⟩
  | framerStep =>
    obtain ⟨u, o, hu⟩ := State.microStep_ok_of_lt (.inr ht)
    exact ⟨_, execFramerStep_of_ok hu⟩
  | framerPoll => exact State.pollStep_of_tail_lt (s := s.beginPoll) ht
  | fifoAvail | frameRead _ | chanDecode _ | statusRead => exact ⟨_, rfl⟩

theorem State.pollTurn_of_tail_lt {s : State} (ht : s.tail.toNat < s.cap) : ∃ t, s.pollTurn = .next t := by
  unfold State.pollTurn
  split
  · exact State.pollStep_of_tail_lt ht
  · exact ⟨s, rfl⟩

theorem State.issue_of_indices_lt {s : State} (hh : s.head.toNat < s.cap) (ht : s.tail.toNat < s.cap) (port : Port)
    (w : CommandWord) : ∃ t, s.issue port w = .next t := by
  unfold State.issue
  split
  · exact ⟨_, rfl⟩
  · exact exec_of_indices_lt hh ht _

/-- The indices are all that a step asks for: it goes on whatever the agents do next. -/
theorem step_of_indices_lt {s : State} (hh : s.head.toNat < s.cap) (ht : s.tail.toNat < s.cap) :
    ∃ t, step s = .next t := by
  unfold step State.agentStep
  split
  · exact State.pollTurn_of_tail_lt ht
  · rename_i port w rest _
    split
    · exact State.pollStep_of_tail_lt ht
    · exact State.issue_of_indices_lt (s := { s with inputs := rest }) hh ht port w
  · exact State.pollTurn_of_tail_lt ht
  · exact ⟨_, rfl⟩

theorem State.Inv.arrive {s : State} (hs : s.Inv) (actions : List AgentAction) : (s.arrive actions).Inv :=
  (s.sameBlock_inputs _).inv hs hs.poll_no_result

/-- Settles O57, by induction on the number of steps. -/
theorem runsKeepInvariant : Obligations.RunsKeepInvariant := by
  intro draw s n hs
  induction n with
  | zero => exact ⟨s, rfl, hs⟩
  | succ n ih =>
    obtain ⟨t, hrun, ht⟩ := ih
    have harrived := ht.arrive (draw n)
    obtain ⟨u, hstep⟩ := step_of_indices_lt harrived.head_lt harrived.tail_lt
    exact ⟨u, State.run_succ hrun hstep, stepKeepsInvariant _ u harrived hstep⟩

end Sys2Proof.Machine
end

section
/-!
PROOFS. The operations that only read (20_memory.md R54, R58; 42_frame_readout.md R140 to R142): each returns a result on
the Q port, and no result depends on the one returned before.
-/
namespace Sys2Proof.Machine

theorem exec_fifoAvail (s : State) : exec .fifoAvail s = .next (s.returned .q (boolResult s.avail)) := rfl

theorem exec_frameRead (s : State) (i : BitVec 5) :
    exec (.frameRead i) s = .next (s.returned .q (zext32 (s.indexOperand i))) := rfl

theorem exec_chanDecode (s : State) (ch : BitVec 8) :
    exec (.chanDecode ch) s = .next (s.returned .q (s.channelOperand ch)) := rfl

theorem exec_statusRead (s : State) : exec .statusRead s = .next (s.returned .q s.statusWord) := rfl

/-- The high byte is worth 256 times its value (R10). -/
theorem zext32_halfWord (hi lo : Byte) :
    zext32 (halfWord hi lo) = BitVec.ofNat 32 (lo.toNat + 256 * hi.toNat) := by
  have hlo := lo.isLt
  have hhi := hi.isLt
  apply BitVec.eq_of_toNat_eq
  rw [zext32, halfWord, BitVec.toNat_setWidth, BitVec.toNat_append, BitVec.toNat_ofNat,
    ← Nat.shiftLeft_add_eq_or_of_lt hlo, Nat.shiftLeft_eq]
  omega

theorem State.channelOperand_of_inRange (s : State) {ch : BitVec 8} (h : 1 ≤ ch.toNat ∧ ch.toNat ≤ 14) :
    s.channelOperand ch = BitVec.ofNat 32 ((s.frameByte (2 + (ch.toNat - 1) * 2)).toNat +
      256 * (s.frameByte (3 + (ch.toNat - 1) * 2)).toNat) := by
  have hoff : channelOffset ch.toNat + 1 = 3 + (ch.toNat - 1) * 2 := by
    unfold channelOffset Config.chBase
    omega
  rw [State.channelOperand, if_pos h, zext32_halfWord, hoff]
  rfl

theorem State.channelOperand_of_outOfRange (s : State) {ch : BitVec 8} (h : ch.toNat = 0 ∨ 15 ≤ ch.toNat) :
    s.channelOperand ch = 1500#32 :=
  if_neg fun ⟨hlow, hhigh⟩ => by
    change ch.toNat ≤ 14 at hhigh
    omega

/-- Settles O38: the operation returns its operand, which each of the two ranges gives its value. -/
theorem chanDecodeResult : Obligations.ChanDecodeResult := by
  intro s ch
  rw [exec_chanDecode]
  refine ⟨fun h => ?_, fun h => ?_⟩
  · rw [s.channelOperand_of_inRange h]
    rfl
  · rw [s.channelOperand_of_outOfRange h]
    rfl

/-- An operation that only returns a result is idempotent when its result does not read the one returned before. -/
theorem exec_idempotent_of_read {op : Instr} {result : State → ResultWord}
    (hexec : ∀ s, exec op s = .next (s.returned .q (result s)))
    (hresult : ∀ s r, result (s.returned .q r) = result s) (s : State) :
    ∃ t, exec op s = .next t ∧ exec op t = .next t := by
  refine ⟨s.returned .q (result s), hexec s, ?_⟩
  rw [hexec, hresult]
  rfl

/-- Settles O40: each of the four reads only what a returned result leaves as it is. -/
theorem readsAreIdempotent : Obligations.ReadsAreIdempotent := by
  intro s i ch op hop
  simp only [List.mem_cons, List.not_mem_nil, or_false] at hop
  obtain rfl | rfl | rfl | rfl := hop
  · exact exec_idempotent_of_read exec_fifoAvail (fun _ _ => rfl) s
  · exact exec_idempotent_of_read (exec_frameRead · i) (fun _ _ => rfl) s
  · exact exec_idempotent_of_read (exec_chanDecode · ch) (fun _ _ => rfl) s
  · exact exec_idempotent_of_read exec_statusRead (fun _ _ => rfl) s

end Sys2Proof.Machine
end

section
/-!
PROOFS. Decoding and encoding are inverse to each other (30_encoding.md R70, R71, R73).
-/
namespace Sys2Proof

theorem toNat_zero_append (i : BitVec 5) : (0#3 ++ i).toNat = i.toNat := by
  rw [BitVec.toNat_append]
  simp

@[simp] theorem idxField_zero_append (i : BitVec 5) : idxField (0#3 ++ i) = i := by
  have hi := i.isLt
  apply BitVec.eq_of_toNat_eq
  rw [toNat_idxField, toNat_zero_append]
  omega

@[simp] theorem idxHighField_zero_append (i : BitVec 5) : idxHighField (0#3 ++ i) = 0#3 := by
  have hi := i.isLt
  apply BitVec.eq_of_toNat_eq
  rw [toNat_idxHighField, toNat_zero_append, BitVec.toNat_ofNat]
  omega

@[simp] theorem noOperand_zero (i : Instr) : noOperand 0#8 i = .ok i := rfl

/-- The word of an operation goes through the checks of R78 to the operation's own one. -/
@[simp] theorem decodeWord_encode (i : Instr) : decodeWord (encode i) = .ok i := by
  cases i <;> simp [encode, decodeWord]

theorem decodeWord_eq_ok_iff {w : CommandWord} {i : Instr} : decodeWord w = .ok i ↔ encode i = w :=
  ⟨encode_of_decodeWord, fun h => h ▸ decodeWord_encode i⟩

theorem encode_inj {i j : Instr} : encode i = encode j ↔ i = j := by
  rw [← decodeWord_eq_ok_iff, decodeWord_encode, Except.ok.injEq, eq_comm]

/-! What `decode` answers (R78): the operation on its own port, a fault for a word that no operation has, and another
one for an operation on the wrong port. -/

@[simp] theorem decode_encode (i : Instr) : decode i.port (encode i) = .ok i := by
  simp [decode]

theorem decode_encode_of_ne {i : Instr} {port : Port} (h : i.port ≠ port) :
    decode port (encode i) = .error .wrongPort := by
  simp [decode, h]

theorem decode_of_ne_encode {w : CommandWord} (h : ∀ i, encode i ≠ w) (port : Port) :
    decode port w = .error .illegalOp := by
  cases hd : decodeWord w with
  | error e => simp [decode, hd]
  | ok i => exact absurd (encode_of_decodeWord hd) (h i)

/-- Settles O1: each operation comes back from its own word, and from its port's decode, as its port is its own. -/
theorem decodeOfEncode : Obligations.DecodeOfEncode :=
  fun i => ⟨decodeWord_encode i, decode_encode i⟩

/-- Settles O2, by the checks that a word has gone through when it decodes. -/
theorem encodeOfDecode : Obligations.EncodeOfDecode :=
  fun _ _ => encode_of_decodeWord

/-- Settles O7: each of the eight words is the one its operation encodes to. -/
theorem sampleWordsDecode : Obligations.SampleWordsDecode :=
  ⟨decodeWord_encode (.rxPush 0xA5#8), decodeWord_encode .fifoAvail, decodeWord_encode .fifoPop,
    decodeWord_encode .framerStep, decodeWord_encode .framerPoll, decodeWord_encode (.frameRead 30#5),
    decodeWord_encode (.chanDecode 14#8), decodeWord_encode .statusRead⟩

end Sys2Proof
end

section
/-!
PROOFS. The rows of the opcode map (30_encoding.md R73): the words a row selects are the words of the row's operations.
-/
namespace Sys2Proof

theorem encodingMatchesRow (i : Instr) : Laws.EncodingMatchesRow.Statement i := by
  cases i with
  | rxPush b => exact Laws.EncodingMatchesRow.rxPush b
  | fifoAvail => exact Laws.EncodingMatchesRow.fifoAvail
  | fifoPop => exact Laws.EncodingMatchesRow.fifoPop
  | framerStep => exact Laws.EncodingMatchesRow.framerStep
  | framerPoll => exact Laws.EncodingMatchesRow.framerPoll
  | frameRead i => exact Laws.EncodingMatchesRow.frameRead i
  | chanDecode ch => exact Laws.EncodingMatchesRow.chanDecode ch
  | statusRead => exact Laws.EncodingMatchesRow.statusRead

/-- A row's mask always covers `OP` and `RSV`; of `IMM8` it says which bits must be zero. -/
theorem OpcodeRow.eq_commandWord_of_selects {port : Port} {op : BitVec 4} {mask : BitVec 8} {w : CommandWord}
    (h : OpcodeRow.selects ⟨port, commandWord op 0#4 0#8, commandWord 0xF#4 0xF#4 mask⟩ w = true) :
    ∃ imm, commandWord op 0#4 imm = w ∧ imm &&& mask = 0#8 := by
  have hones : (0xF#4 : BitVec 4) = BitVec.allOnes 4 := rfl
  rw [OpcodeRow.selects, beq_iff_eq, ← commandWord_fields w, commandWord_and, commandWord_inj, hones,
    BitVec.and_allOnes, BitVec.and_allOnes] at h
  obtain ⟨hop, hrsv, himm⟩ := h
  exact ⟨immField w, by rw [← hop, ← hrsv, commandWord_fields], himm⟩

/-- The row of a `none`-form operation selects one word. -/
theorem OpcodeRow.eq_of_selects_full {port : Port} {op : BitVec 4} {w : CommandWord}
    (h : OpcodeRow.selects ⟨port, commandWord op 0#4 0#8, commandWord 0xF#4 0xF#4 0xFF#8⟩ w = true) :
    commandWord op 0#4 0#8 = w := by
  obtain ⟨imm, rfl, himm⟩ := OpcodeRow.eq_commandWord_of_selects h
  have hones : (0xFF#8 : BitVec 8) = BitVec.allOnes 8 := rfl
  rw [hones, BitVec.and_allOnes] at himm
  rw [himm]

theorem idxHighField_of_and {imm : BitVec 8} (h : imm &&& 0xE0#8 = 0#8) : idxHighField imm = 0#3 := by
  calc idxHighField imm = idxHighField imm &&& BitVec.allOnes 3 := BitVec.and_allOnes.symm
    _ = idxHighField (imm &&& 0xE0#8) := by rw [idxHighField, idxHighField, BitVec.extractLsb'_and]; rfl
    _ = 0#3 := by rw [h]; rfl

theorem OpcodeRow.exists_encode_of_selects {r : OpcodeRow} {w : CommandWord} (hr : r ∈ opcodeTable)
    (h : r.selects w = true) : ∃ i : Instr, i.row = r ∧ encode i = w := by
  simp only [opcodeTable, List.mem_cons, List.not_mem_nil, or_false] at hr
  obtain rfl | rfl | rfl | rfl | rfl | rfl | rfl | rfl := hr
  · obtain ⟨imm, himm, -⟩ := OpcodeRow.eq_commandWord_of_selects (op := 0x1#4) (mask := 0#8) h
    exact ⟨.rxPush imm, rfl, himm⟩
  · exact ⟨.fifoAvail, rfl, OpcodeRow.eq_of_selects_full (op := 0x2#4) h⟩
  · exact ⟨.fifoPop, rfl, OpcodeRow.eq_of_selects_full (op := 0x3#4) h⟩
  · exact ⟨.framerStep, rfl, OpcodeRow.eq_of_selects_full (op := 0x4#4) h⟩
  · exact ⟨.framerPoll, rfl, OpcodeRow.eq_of_selects_full (op := 0x5#4) h⟩
  · obtain ⟨imm, himm, hmask⟩ := OpcodeRow.eq_commandWord_of_selects (op := 0x6#4) (mask := 0xE0#8) h
    exact ⟨.frameRead (idxField imm), rfl, by rw [encode, zero_append_idxField (idxHighField_of_and hmask), himm]⟩
  · obtain ⟨imm, himm, -⟩ := OpcodeRow.eq_commandWord_of_selects (op := 0x7#4) (mask := 0#8) h
    exact ⟨.chanDecode imm, rfl, himm⟩
  · exact ⟨.statusRead, rfl, OpcodeRow.eq_of_selects_full (op := 0x8#4) h⟩

/-- No row selects a word exactly when it is the word of no operation. -/
theorem no_row_selects_iff {w : CommandWord} : (∀ r ∈ opcodeTable, ¬ r.selects w) ↔ ∀ i, encode i ≠ w := by
  constructor
  · rintro h i rfl
    obtain ⟨hmem, -, hsel⟩ := encodingMatchesRow i
    exact h i.row hmem hsel
  · intro h r hr hsel
    obtain ⟨i, -, hi⟩ := OpcodeRow.exists_encode_of_selects hr hsel
    exact h i hi

/-- Settles O3: a row selects the words of its own operations only, and a word is the word of one operation only. -/
theorem wordSelectsAtMostOneRow : Obligations.WordSelectsAtMostOneRow := by
  intro w
  refine ⟨fun r hr r' hr' h h' => ?_, fun i hi => ?_, fun r hr h => ?_⟩
  · obtain ⟨i, rfl, rfl⟩ := OpcodeRow.exists_encode_of_selects hr h
    obtain ⟨j, rfl, hj⟩ := OpcodeRow.exists_encode_of_selects hr' h'
    rw [encode_inj.1 hj]
  · obtain rfl := encode_of_decodeWord hi
    obtain ⟨hmem, hport, hsel⟩ := encodingMatchesRow i
    exact ⟨hmem, hsel, hport⟩
  · obtain ⟨i, hrow, hi⟩ := OpcodeRow.exists_encode_of_selects hr h
    exact ⟨i, decodeWord_eq_ok_iff.2 hi, hrow⟩

end Sys2Proof
end

section
/-!
PROOFS. A command word as a number (30_encoding.md R70, R73, R75): which numbers are the words of operations, and of
which ones.
-/
namespace Sys2Proof

/-- The value of `OP` in an operation's word (R73). -/
def Instr.opcode : Instr → Nat
  | .rxPush _ => 1
  | .fifoAvail => 2
  | .fifoPop => 3
  | .framerStep => 4
  | .framerPoll => 5
  | .frameRead _ => 6
  | .chanDecode _ => 7
  | .statusRead => 8

/-- The value of `IMM8` in an operation's word (R71). -/
def Instr.operand : Instr → Nat
  | .rxPush b => b.toNat
  | .frameRead i => i.toNat
  | .chanDecode ch => ch.toNat
  | .fifoAvail | .fifoPop | .framerStep | .framerPoll | .statusRead => 0

theorem toNat_encode (i : Instr) : (encode i).toNat = i.opcode * 4096 + i.operand := by
  cases i <;>
    simp only [encode, Instr.opcode, Instr.operand, toNat_commandWord, toNat_zero_append, BitVec.toNat_ofNat]

theorem Instr.operand_lt (i : Instr) : i.operand < 256 := by
  cases i with
  | rxPush b => exact b.isLt
  | frameRead i => exact i.isLt.trans (by decide)
  | chanDecode ch => exact ch.isLt
  | fifoAvail | fifoPop | framerStep | framerPoll | statusRead => decide

theorem encode_eq_iff {i : Instr} {w : CommandWord} :
    encode i = w ↔ i.opcode = w.toNat / 4096 ∧ w.toNat / 256 % 16 = 0 ∧ i.operand = w.toNat % 256 := by
  have hlt := i.operand_lt
  rw [← BitVec.toNat_inj, toNat_encode]
  omega

/-- What makes a word illegal (R75): a reserved `OP`, a nonzero `RSV`, an operand on a `none`-form operation, or a
`FRAME_READ` index above 31. -/
def IllegalFields (w : CommandWord) : Prop :=
  w.toNat / 4096 = 0 ∨ 9 ≤ w.toNat / 4096 ∨ w.toNat / 256 % 16 ≠ 0 ∨
    (w.toNat / 4096 ∈ [2, 3, 4, 5, 8] ∧ w.toNat % 256 ≠ 0) ∨
    (w.toNat / 4096 = 6 ∧ w.toNat % 256 / 32 ≠ 0)

/-- The operation that `OP` and `IMM8` name (R73). -/
def operationOf (op imm : Nat) : Instr :=
  if op = 1 then .rxPush (BitVec.ofNat 8 imm)
  else if op = 2 then .fifoAvail
  else if op = 3 then .fifoPop
  else if op = 4 then .framerStep
  else if op = 5 then .framerPoll
  else if op = 6 then .frameRead (BitVec.ofNat 5 imm)
  else if op = 7 then .chanDecode (BitVec.ofNat 8 imm)
  else .statusRead

theorem operationOf_port (op imm : Nat) : (operationOf op imm).port = if op = 1 then .p else .q := by
  unfold operationOf
  split_ifs <;> rfl

theorem not_illegalFields_encode (i : Instr) : ¬ IllegalFields (encode i) := by
  obtain ⟨hop, hrsv, himm⟩ := encode_eq_iff.1 (rfl : encode i = encode i)
  unfold IllegalFields
  rw [← hop, ← himm, hrsv]
  cases i with
  | frameRead i =>
    have hi := i.isLt
    simp [Instr.opcode, Instr.operand]
    omega
  | _ => simp [Instr.opcode, Instr.operand]

/-- The word's fields are in the ranges of their operation's operands, so nothing of them is cut off. -/
theorem encode_operationOf {w : CommandWord} (h : ¬ IllegalFields w) :
    encode (operationOf (w.toNat / 4096) (w.toNat % 256)) = w := by
  simp only [IllegalFields, List.mem_cons, List.not_mem_nil, or_false] at h
  rw [encode_eq_iff]
  unfold operationOf
  split_ifs <;> simp [Instr.opcode, Instr.operand] <;> omega

theorem ne_encode_iff {w : CommandWord} : (∀ i, encode i ≠ w) ↔ IllegalFields w := by
  constructor
  · intro h
    by_contra hlegal
    exact h _ (encode_operationOf hlegal)
  · rintro hw i rfl
    exact not_illegalFields_encode i hw

end Sys2Proof
end

section
/-!
PROOFS. What issuing a word does (30_encoding.md R75, R77, R78; 60_exceptions.md R162), and the step that issues it.
-/
namespace Sys2Proof.Machine

theorem State.issue_of_error (s : State) {port : Port} {w : CommandWord} {code : FaultCode}
    (h : decode port w = .error code) : s.issue port w = .next (s.raiseFault port code) := by
  rw [State.issue, h]

theorem State.issue_encode (s : State) {port : Port} {i : Instr} (h : i.port = port) :
    s.issue port (encode i) = exec i s := by
  rw [State.issue, ← h, decode_encode]

theorem State.busy_eq_false {s : State} {port : Port} (h : port = .q → s.pollInFlight = false) :
    s.busy port = false := by
  cases port with
  | p => rfl
  | q => exact h rfl

theorem step_of_command {s : State} {port : Port} {w : CommandWord} {rest : List AgentAction}
    (hin : s.inputs = .command port w :: rest) (hp : port = .q → s.pollInFlight = false) :
    step s = { s with inputs := rest }.issue port w := by
  simp [step, State.agentStep, hin, State.busy_eq_false hp]

/-- A step that turns a word away takes it off the list, keeps the first fault, returns 0 and does nothing else
(R162). -/
theorem step_of_error {s : State} {port : Port} {w : CommandWord} {rest : List AgentAction} {code : FaultCode}
    (hin : s.inputs = .command port w :: rest) (hp : port = .q → s.pollInFlight = false)
    (hdec : decode port w = .error code) :
    step s = .next { s with
      inputs := rest
      fault := if s.fault = 0#4 then faultBits code else s.fault
      pResult := if port = .p then some 0#32 else s.pResult
      qResult := if port = .q then some 0#32 else s.qResult } := by
  rw [step_of_command hin hp, State.issue_of_error _ hdec]
  cases port <;> rfl

/-- Settles O4: a word that no row selects is the word of no operation, so its fields are illegal and decoding turns
it away. -/
theorem illegalWordsFault : Obligations.IllegalWordsFault := by
  intro w
  refine ⟨no_row_selects_iff.trans ne_encode_iff, fun h s port rest hin hp => ?_⟩
  exact step_of_error hin hp (decode_of_ne_encode (no_row_selects_iff.1 h) port)

/-- Settles O5: the word is the one of an operation of the row, whose port is the row's. -/
theorem wrongPortFaults : Obligations.WrongPortFaults := by
  intro s port w rest r hr hsel hport hin hp
  obtain ⟨i, rfl, rfl⟩ := OpcodeRow.exists_encode_of_selects hr hsel
  obtain ⟨-, hrow, -⟩ := encodingMatchesRow i
  exact step_of_error hin hp (decode_encode_of_ne (hrow ▸ hport))

theorem State.issue_of_illegalFields (s : State) (port : Port) {w : CommandWord} (h : IllegalFields w) :
    s.issue port w = .next (s.raiseFault port .illegalOp) :=
  s.issue_of_error (decode_of_ne_encode (ne_encode_iff.2 h) port)

/-- A word with legal fields runs the operation that they name on its port, and is turned away on the other. -/
theorem State.issue_of_legalFields (s : State) (port : Port) {w : CommandWord} {i : Instr} (hw : ¬ IllegalFields w)
    (hi : operationOf (w.toNat / 4096) (w.toNat % 256) = i) :
    (i.port ≠ port → s.issue port w = .next (s.raiseFault port .wrongPort)) ∧
    (i.port = port → s.issue port w = exec i s) := by
  obtain rfl : encode i = w := hi ▸ encode_operationOf hw
  exact ⟨fun h => s.issue_of_error (decode_encode_of_ne h), s.issue_encode⟩

/-- Settles O6: the first four checks are those of an illegal word; past them the word is the one of the operation that
its fields name, and the last two compare that operation's port. -/
theorem decodeOrder : Obligations.DecodeOrder := by
  intro s port w
  have hill := s.issue_of_illegalFields port (w := w)
  refine ite_prop_iff_and.2 ⟨fun h => hill (h.imp_right .inl), fun hop => ?_⟩
  refine ite_prop_iff_and.2 ⟨fun h => hill (.inr (.inr (.inl h))), fun hrsv => ?_⟩
  refine ite_prop_iff_and.2 ⟨fun h => hill (.inr (.inr (.inr (.inl h)))), fun himm => ?_⟩
  refine ite_prop_iff_and.2 ⟨fun h => hill (.inr (.inr (.inr (.inr h)))), fun hidx => ?_⟩
  have hlegal : ¬ IllegalFields w := by
    unfold IllegalFields
    tauto
  obtain ⟨hwrong, hown⟩ := s.issue_of_legalFields port hlegal rfl
  rw [operationOf_port] at hwrong hown
  refine ite_prop_iff_and.2 ⟨fun ⟨hone, hne⟩ => hwrong ?_, fun hp => ?_⟩
  · rw [if_pos hone]
    exact hne.symm
  refine ite_prop_iff_and.2 ⟨fun ⟨hone, hne⟩ => hwrong ?_, fun hq => ⟨_, hown ?_, rfl⟩⟩
  · rw [if_neg hone]
    exact hne.symm
  · split_ifs with hone
    · exact (not_ne_iff.1 fun hne => hp ⟨hone, hne⟩).symm
    · exact (not_ne_iff.1 fun hne => hq ⟨hone, hne⟩).symm

end Sys2Proof.Machine
end

section
/-!
PROOFS. Assembly lines (30_encoding.md R71, R81, R82): which operands each form takes, and what a line stands for.
-/
namespace Sys2Proof

theorem OperandForm.none_admits_iff {ops : List Nat} : OperandForm.none.admits ops = true ↔ ops = [] := by
  simp [OperandForm.admits]

/-- A form with one operand admits the lists of one number up to its limit. -/
theorem OperandForm.admits_iff_of_one {form : OperandForm} {limit : Nat} (hnil : form.admits [] = false)
    (hone : ∀ n, form.admits [n] = decide (n ≤ limit)) (hmore : ∀ a b ns, form.admits (a :: b :: ns) = false)
    {ops : List Nat} : form.admits ops = true ↔ ∃ n ≤ limit, ops = [n] := by
  match ops with
  | [] => simp [hnil]
  | [n] => simp [hone]
  | _ :: _ :: _ => simp [hmore]

theorem OperandForm.d8_admits_iff {ops : List Nat} : OperandForm.d8.admits ops = true ↔ ∃ n ≤ 255, ops = [n] :=
  OperandForm.admits_iff_of_one rfl (fun _ => rfl) (fun _ _ _ => rfl)

theorem OperandForm.idx5_admits_iff {ops : List Nat} : OperandForm.idx5.admits ops = true ↔ ∃ n ≤ 31, ops = [n] :=
  OperandForm.admits_iff_of_one rfl (fun _ => rfl) (fun _ _ _ => rfl)

theorem OperandForm.ch8_admits_iff {ops : List Nat} : OperandForm.ch8.admits ops = true ↔ ∃ n ≤ 255, ops = [n] :=
  OperandForm.admits_iff_of_one rfl (fun _ => rfl) (fun _ _ _ => rfl)

theorem OperandForm.bytes_admits_iff {ops : List Nat} :
    OperandForm.bytes.admits ops = true ↔ ops ≠ [] ∧ ∀ n ∈ ops, n ≤ 255 := by
  simp [OperandForm.admits]

/-- Only `RX_FEED` asks for a port (R82). -/
theorem AsmLine.wellFormed_iff {l : AsmLine} :
    l.wellFormed = true ↔ l.mnemonic.form.admits l.operands = true ∧ (l.mnemonic = .rxFeed → l.port = .p) := by
  simp [AsmLine.wellFormed, imp_iff_not_or]

theorem encode_eq_ofNat {i : Instr} {base n : Nat} (hbase : i.opcode * 4096 = base) (hn : i.operand = n) :
    encode i = BitVec.ofNat 16 (base + n) := by
  rw [← hbase, ← hn, ← toNat_encode, BitVec.ofNat_toNat, BitVec.setWidth_eq]

theorem encode_rxPush_ofNat {n : Nat} (h : n ≤ 255) :
    encode (.rxPush (BitVec.ofNat 8 n)) = BitVec.ofNat 16 (0x1000 + n) :=
  encode_eq_ofNat (by rw [Instr.opcode]) (Nat.mod_eq_of_lt (by omega))

theorem encode_frameRead_ofNat {n : Nat} (h : n ≤ 31) :
    encode (.frameRead (BitVec.ofNat 5 n)) = BitVec.ofNat 16 (0x6000 + n) :=
  encode_eq_ofNat (by rw [Instr.opcode]) (Nat.mod_eq_of_lt (by omega))

theorem encode_chanDecode_ofNat {n : Nat} (h : n ≤ 255) :
    encode (.chanDecode (BitVec.ofNat 8 n)) = BitVec.ofNat 16 (0x7000 + n) :=
  encode_eq_ofNat (by rw [Instr.opcode]) (Nat.mod_eq_of_lt (by omega))

end Sys2Proof

namespace Sys2Proof.Machine

theorem assemble_of_not_wellFormed {l : AsmLine} (h : l.wellFormed = false) : assemble l = none := by
  simp [assemble, h]

theorem assemble_of_not_admits {port : Port} {m : Mnemonic} {ops : List Nat} (h : ¬ m.form.admits ops = true) :
    assemble ⟨port, m, ops⟩ = none :=
  assemble_of_not_wellFormed (Bool.eq_false_iff.2 fun hwf => h (AsmLine.wellFormed_iff.1 hwf).1)

/-- A line whose operands make an operation, each in its form's range, stands for that operation's word. -/
theorem assemble_of_instrOf {port : Port} {m : Mnemonic} {ops : List Nat} {i : Instr}
    (hform : m.form.admits ops = true) (hi : instrOf m ops = some i) :
    assemble ⟨port, m, ops⟩ = some [.command port (encode i)] := by
  have hm : m ≠ .rxFeed := by
    rintro rfl
    simp [instrOf] at hi
  rw [assemble, if_pos (AsmLine.wellFormed_iff.2 ⟨hform, fun h => absurd h hm⟩)]
  cases m with
  | rxFeed => exact absurd rfl hm
  | _ => simp only [hi, Option.map_some]

theorem assemble_rxFeed {ops : List Nat} (hform : OperandForm.bytes.admits ops = true) :
    assemble ⟨.p, .rxFeed, ops⟩ =
      some (ops.map fun n => .command .p (encode (.rxPush (BitVec.ofNat 8 n)))) := by
  have hwf : AsmLine.wellFormed ⟨.p, .rxFeed, ops⟩ = true := AsmLine.wellFormed_iff.2 ⟨hform, fun _ => rfl⟩
  simp [assemble, hwf]

/-- Operands that fit their form make an operation. -/
theorem instrOf_of_admits {m : Mnemonic} {ops : List Nat} (hm : m ≠ .rxFeed) (hform : m.form.admits ops = true) :
    ∃ i, instrOf m ops = some i := by
  cases m with
  | rxPush =>
    obtain ⟨n, -, rfl⟩ := OperandForm.d8_admits_iff.1 hform
    exact ⟨_, rfl⟩
  | frameRead =>
    obtain ⟨n, -, rfl⟩ := OperandForm.idx5_admits_iff.1 hform
    exact ⟨_, rfl⟩
  | chanDecode =>
    obtain ⟨n, -, rfl⟩ := OperandForm.ch8_admits_iff.1 hform
    exact ⟨_, rfl⟩
  | fifoAvail | fifoPop | framerStep | framerPoll | statusRead =>
    obtain rfl := OperandForm.none_admits_iff.1 hform
    exact ⟨_, rfl⟩
  | rxFeed => exact absurd rfl hm

/-- The assembler turns away exactly the ill-formed lines (R81). -/
theorem assemble_eq_none_iff {l : AsmLine} : assemble l = none ↔ l.wellFormed = false := by
  refine ⟨fun h => Bool.eq_false_iff.2 fun hwf => ?_, assemble_of_not_wellFormed⟩
  obtain ⟨port, m, ops⟩ := l
  obtain ⟨hform, hport⟩ := AsmLine.wellFormed_iff.1 hwf
  by_cases hm : m = .rxFeed
  · obtain rfl := hm
    obtain rfl : port = .p := hport rfl
    rw [assemble_rxFeed hform] at h
    cases h
  · obtain ⟨i, hi⟩ := instrOf_of_admits hm hform
    rw [assemble_of_instrOf hform hi] at h
    cases h

/-- Settles O52: the line is well formed exactly for a nonempty list of bytes on the P port. -/
theorem rxFeedIsPushes : Obligations.RxFeedIsPushes := by
  refine ⟨fun ops hne hle => ?_, fun port => ?_, fun ops => ?_, fun port ops ⟨n, hn, hlt⟩ => ?_⟩
  · rw [assemble_rxFeed (OperandForm.bytes_admits_iff.2 ⟨hne, hle⟩)]
    exact congrArg some (List.map_congr_left fun n hn => by rw [encode_rxPush_ofNat (hle n hn)])
  · exact assemble_of_not_admits (by decide)
  · exact assemble_of_not_wellFormed (by simp [AsmLine.wellFormed])
  · refine assemble_of_not_admits fun hform => ?_
    obtain ⟨-, hle⟩ := OperandForm.bytes_admits_iff.1 hform
    exact absurd (hle n hn) (by omega)

theorem assemble_of_above {port : Port} {m : Mnemonic} {limit n : Nat}
    (hform : ∀ {ops}, m.form.admits ops = true ↔ ∃ k ≤ limit, ops = [k]) (h : limit < n) :
    assemble ⟨port, m, [n]⟩ = none := by
  refine assemble_of_not_admits fun hadm => ?_
  obtain ⟨k, hk, hnk⟩ := hform.1 hadm
  obtain rfl := List.singleton_inj.1 hnk
  omega

theorem assemble_of_length_ne_one {port : Port} {m : Mnemonic} {limit : Nat} {ops : List Nat}
    (hform : ∀ {ops}, m.form.admits ops = true ↔ ∃ k ≤ limit, ops = [k]) (h : ops.length ≠ 1) :
    assemble ⟨port, m, ops⟩ = none := by
  refine assemble_of_not_admits fun hadm => ?_
  obtain ⟨k, -, rfl⟩ := hform.1 hadm
  exact h rfl

theorem assemble_of_superfluous {port : Port} {m : Mnemonic} {ops : List Nat} (hm : m.form = .none)
    (h : ops ≠ []) : assemble ⟨port, m, ops⟩ = none :=
  assemble_of_not_admits (hm ▸ fun hadm => h (OperandForm.none_admits_iff.1 hadm))

/-- Settles O51: a line whose operands fit its mnemonic's form stands for its operation's word, and one whose operands
do not is ill formed. -/
theorem wellFormedLinesAssemble : Obligations.WellFormedLinesAssemble := by
  intro port
  refine ⟨fun n h => ?_, fun n h => ?_, fun n h => ?_, fun n h => ?_, fun n h => ?_, fun n h => ?_,
    fun m hm ops h => ?_, ?_, ?_, ?_, ?_, ?_, fun m hm ops h => ?_, fun l => assemble_eq_none_iff⟩
  · rw [assemble_of_instrOf (m := .rxPush) (OperandForm.d8_admits_iff.2 ⟨n, h, rfl⟩) rfl, encode_rxPush_ofNat h]
  · exact assemble_of_above OperandForm.d8_admits_iff h
  · rw [assemble_of_instrOf (m := .frameRead) (OperandForm.idx5_admits_iff.2 ⟨n, h, rfl⟩) rfl,
      encode_frameRead_ofNat h]
  · exact assemble_of_above OperandForm.idx5_admits_iff h
  · rw [assemble_of_instrOf (m := .chanDecode) (OperandForm.ch8_admits_iff.2 ⟨n, h, rfl⟩) rfl,
      encode_chanDecode_ofNat h]
  · exact assemble_of_above OperandForm.ch8_admits_iff h
  · simp only [List.mem_cons, List.not_mem_nil, or_false] at hm
    obtain rfl | rfl | rfl := hm
    · exact assemble_of_length_ne_one OperandForm.d8_admits_iff h
    · exact assemble_of_length_ne_one OperandForm.idx5_admits_iff h
    · exact assemble_of_length_ne_one OperandForm.ch8_admits_iff h
  · exact assemble_of_instrOf (i := .fifoAvail) rfl rfl
  · exact assemble_of_instrOf (i := .fifoPop) rfl rfl
  · exact assemble_of_instrOf (i := .framerStep) rfl rfl
  · exact assemble_of_instrOf (i := .framerPoll) rfl rfl
  · exact assemble_of_instrOf (i := .statusRead) rfl rfl
  · simp only [List.mem_cons, List.not_mem_nil, or_false] at hm
    obtain rfl | rfl | rfl | rfl | rfl := hm <;> exact assemble_of_superfluous rfl h

end Sys2Proof.Machine
end

section
/-!
PROOFS. One operation on the ring buffer (40_receiver_fifo.md R100 to R102, R105), by
whether the buffer is full, or empty.
-/
namespace Sys2Proof.Machine

theorem State.isFull_eq_false_iff (s : State) :
    s.isFull = false ↔ (s.head.toNat + 1) % s.cap ≠ s.tail.toNat := by
  rw [← Bool.not_eq_true, s.isFull_iff]

/-- The slots after an accepted push: `HEAD` holds the byte, every other slot what it held (R100). -/
@[simp] theorem State.fifoByte_acceptByte (s : State) (b : Byte) (j : Nat) :
    (s.acceptByte b).fifoByte j = if j = s.head.toNat then b else s.fifoByte j :=
  State.fifoByte_write (t := s.acceptByte b) rfl rfl j

/-- Settles O14: the push goes to the free slot `HEAD`. -/
theorem rxPushAccepted : Obligations.RxPushAccepted := by
  intro s b hlt hne
  have hfull := s.isFull_eq_false_iff.2 hne
  refine ⟨_, execRxPush_of_free b hfull hlt, rfl, s.toNat_advance s.head, ?_, fun j hj => ?_⟩
  · simp
  · simp [hj]

/-- Settles O15: the condition is that of a full buffer, on which a push only returns its result. -/
theorem rxPushDroppedWhenFull : Obligations.RxPushDroppedWhenFull :=
  fun s b h => execRxPush_of_full b (s.isFull_iff.2 h)

/-- Settles O16: the P port is never busy, so the step is the push itself, which answers on a full buffer and with a
free slot. -/
theorem producerNeverWaits : Obligations.ProducerNeverWaits := by
  intro s b rest hlt hin
  have hstep : step s = exec (.rxPush b) { s with inputs := rest } :=
    (step_of_command hin (fun h => by cases h)).trans (State.issue_encode _ rfl)
  rw [hstep]
  cases hfull : State.isFull { s with inputs := rest } with
  | true => exact ⟨_, execRxPush_of_full b hfull, rfl, .inr rfl, rfl, rfl⟩
  | false => exact ⟨_, execRxPush_of_free b hfull hlt, rfl, .inl rfl, rfl, rfl⟩

theorem boolResult_avail (s : State) : boolResult s.avail = if s.head = s.tail then 0#32 else 1#32 := by
  rw [s.avail_eq_decide]
  by_cases he : s.head = s.tail <;> simp [boolResult, he]

/-- Settles O17: the result is the availability of a byte, as a word. -/
theorem fifoAvailResult : Obligations.FifoAvailResult := by
  intro s
  rw [exec_fifoAvail, boolResult_avail]
  rfl

/-- Settles O18: slot `TAIL` exists and holds the byte to consume. -/
theorem fifoPopReturnsOldest : Obligations.FifoPopReturnsOldest :=
  fun s hne hlt => ⟨_, execFifoPop_of_hasByte ⟨hne, hlt, rfl⟩, rfl, s.toNat_advance s.tail⟩

/-- Settles O19: the pop of an empty buffer is the fault `POP_EMPTY`, whose code is 3. -/
theorem fifoPopEmptyFaults : Obligations.FifoPopEmptyFaults :=
  fun _ h => execFifoPop_of_empty h

/-- Settles O20: on an empty buffer the pop records its fault and the other result is 0; with a byte held the pop leaves
`FAULT` as it is and the other result is 1. -/
theorem availExactlyWhenPopSucceeds : Obligations.AvailExactlyWhenPopSucceeds := by
  intro s hs hfault
  by_cases he : s.head = s.tail
  · refine ⟨_, _, fifoAvailResult s, execFifoPop_of_empty he, ?_⟩
    simp [he, hfault, faultBits]
  · refine ⟨_, _, fifoAvailResult s, execFifoPop_of_hasByte ⟨he, hs.tail_lt, rfl⟩, ?_⟩
    simp [he, hfault]

end Sys2Proof.Machine
end

section
/-!
PROOFS. Several operations on the ring buffer in a row (40_receiver_fifo.md R107): pushes fill the free space and the
rest is dropped, pops hand out the bytes held in their order, and a push and a pop commute (60_exceptions.md R168).
-/
namespace Sys2Proof.Machine

theorem State.SameBlock.symm {s t : State} (h : s.SameBlock t) : t.SameBlock s := by
  obtain ⟨_, _, _, _, rfl⟩ := h
  exact ⟨_, _, _, _, rfl⟩

theorem State.Inv.returned_p {s : State} (hs : s.Inv) (r : ResultWord) : (s.returned .p r).Inv :=
  (s.sameBlock_returned .p r).inv hs hs.poll_no_result

/-- The number of bytes that still fit (R26): one slot always stays free. -/
def State.free (s : State) : Nat := s.cap - 1 - s.count

theorem State.isFull_iff_free {s : State} (hs : s.Inv) : s.isFull = true ↔ s.free = 0 := by
  have hlt := s.count_lt
  rw [s.isFull_iff_count hs.head_lt hs.tail_lt, State.free]
  omega

theorem State.isFull_eq_false_of_free_pos {s : State} (hs : s.Inv) (h : 0 < s.free) : s.isFull = false :=
  Bool.eq_false_iff.2 fun hfull => h.ne' ((State.isFull_iff_free hs).1 hfull)

/-- An accepted push takes one slot of the free ones. -/
theorem State.free_acceptByte {s : State} (hs : s.Inv) (hfull : s.isFull = false) (b : Byte) :
    s.free = (s.acceptByte b).free + 1 := by
  have hpos : s.free ≠ 0 := fun h => by simp [(State.isFull_iff_free hs).2 h] at hfull
  have hcount : (s.acceptByte b).count = s.count + 1 := by
    simpa using congrArg List.length (State.contents_acceptByte hs hfull b)
  have hcap : (s.acceptByte b).cap = s.cap := rfl
  unfold State.free at hpos ⊢
  omega

/-- Consuming a byte frees its slot. -/
theorem State.free_takeByte {s : State} {b : Byte} (hs : s.Inv) (hb : s.HasByte b) :
    s.takeByte.free = s.free + 1 := by
  have hcount : s.count = s.takeByte.count + 1 := by
    simpa using congrArg List.length (State.contents_takeByte hs hb)
  have hlt := s.count_lt
  rw [State.free, State.free, State.takeByte_cap]
  omega

/-- The first of the bytes held is the one to consume next, and the others are what consuming it leaves. -/
theorem State.takeByte_of_contents {s : State} {b : Byte} {bs : List Byte} (hs : s.Inv) (h : s.contents = b :: bs) :
    s.HasByte b ∧ s.takeByte.contents = bs := by
  have hb := State.hasByte_of_contents hs h
  rw [State.contents_takeByte hs hb, List.cons.injEq] at h
  exact ⟨hb, h.2⟩

theorem State.pushAll_cons {s t u : State} {b : Byte} {bs : List Byte} {results : List (Option ResultWord)}
    (h : exec (.rxPush b) s = .next t) (hrest : State.pushAll bs t = some (u, results)) :
    State.pushAll (b :: bs) s = some (u, t.pResult :: results) := by
  simp [State.pushAll, h, hrest]

theorem State.popAll_succ {s t u : State} {n : Nat} {results : List (Option ResultWord)}
    (h : exec .fifoPop s = .next t) (hrest : State.popAll n t = some (u, results)) :
    State.popAll (n + 1) s = some (u, t.qResult :: results) := by
  simp [State.popAll, h, hrest]

/-- Of the bytes pushed in a row those that fit are accepted and appended, and the rest is dropped. -/
theorem State.pushAll_accepts_free {s : State} (hs : s.Inv) (bs : List Byte) :
    ∃ t, State.pushAll bs s = some (t,
        (bs.take s.free).map (fun _ => some 1#32) ++ (bs.drop s.free).map fun _ => some 0#32) ∧
      t.Inv ∧ t.contents = s.contents ++ bs.take s.free ∧ t.fault = s.fault := by
  induction bs generalizing s with
  | nil => exact ⟨s, by simp [State.pushAll], hs, by simp, rfl⟩
  | cons b bs ih =>
    cases hfull : s.isFull with
    | true =>
      have hfree := (State.isFull_iff_free hs).1 hfull
      obtain ⟨t, hpush, hinv, hbytes, hfault⟩ := ih (hs.returned_p 0#32)
      rw [show (s.returned .p 0#32).free = 0 from hfree] at hpush hbytes
      rw [hfree]
      exact ⟨t, State.pushAll_cons (execRxPush_of_full b hfull) hpush, hinv, hbytes, hfault⟩
    | false =>
      obtain ⟨t, hpush, hinv, hbytes, hfault⟩ := ih ((hs.acceptByte hfull b).returned_p 1#32)
      rw [(State.sameBlock_returned _ _ _).contents, State.contents_acceptByte hs hfull, List.append_assoc] at hbytes
      rw [State.free_acceptByte hs hfull b]
      exact ⟨t, State.pushAll_cons (execRxPush_of_free b hfull hs.head_lt) hpush, hinv, hbytes, hfault⟩

/-- As many pops as bytes are held return them in their order. The state popped from is told of up to its agents' side:
a pop while a poll is in flight returns a result on the busy port, which is outside the invariant. -/
theorem State.popAll_returns_contents {s s' : State} (hs : s.Inv) (hsame : s.SameBlock s') {bs : List Byte}
    (hbytes : s.contents = bs) :
    ∃ u, State.popAll bs.length s' = some (u, bs.map fun b => some (b.setWidth 32)) ∧ u.fault = s.fault := by
  induction bs generalizing s s' with
  | nil => exact ⟨s', rfl, hsame.fault⟩
  | cons b bs ih =>
    obtain ⟨hb, hrest⟩ := State.takeByte_of_contents hs hbytes
    obtain ⟨u, hpop, hfault⟩ := ih (s' := s'.takeByte.returned .q (zext32 b)) (hs.takeByte hb)
      (hsame.takeByte.trans (State.sameBlock_returned _ _ _)) hrest
    exact ⟨u, State.popAll_succ (execFifoPop_of_hasByte (hsame.symm.hasByte hb)) hpop, hfault⟩

/-- Settles O23: all the bytes fit, so the buffer then holds them behind those held before, and the pops hand all of
them out. -/
theorem pushedBytesComeBackInOrder : Obligations.PushedBytesComeBackInOrder := by
  intro s bs hs hfit
  have hfree : bs.length ≤ s.free := by
    rw [s.length_contents] at hfit
    unfold State.free
    omega
  obtain ⟨t, hpush, hinv, hbytes, hfault⟩ := State.pushAll_accepts_free hs bs
  rw [List.take_of_length_le hfree] at hpush hbytes
  rw [List.drop_of_length_le hfree, List.map_nil, List.append_nil] at hpush
  obtain ⟨u, hpop, hfault'⟩ := State.popAll_returns_contents hinv (t.sameBlock_inputs t.inputs) hbytes
  rw [List.length_append] at hpop
  exact ⟨t, hpush, u, hpop, hfault'.trans hfault⟩

/-- Settles O24: of an empty buffer all slots but one are free. -/
theorem excessPushesAreDropped : Obligations.ExcessPushesAreDropped := by
  intro s bs hs hempty
  have hfree : s.free = s.cap - 1 := by
    rw [State.free, ← s.length_contents, hempty]
    rfl
  obtain ⟨t, hpush, -, hbytes, hfault⟩ := State.pushAll_accepts_free hs bs
  rw [hfree] at hpush hbytes
  exact ⟨t, hpush, by rw [hbytes, hempty, List.nil_append], hfault⟩

/-- Settles O25: a push does not change the oldest byte and a pop does not fill the buffer, so in both orders the one
operation answers after the other as before it; they write different fields, so the order does not show. -/
theorem pushAndPopCommute : Obligations.PushAndPopCommute := by
  intro s b hs hne hcount
  obtain ⟨c, bs, hbytes⟩ := List.exists_cons_of_ne_nil hne
  have hc := State.hasByte_of_contents hs hbytes
  have hfull := State.isFull_eq_false_of_free_pos hs (Nat.sub_pos_of_lt hcount)
  have hc' : (s.acceptByte b).HasByte c := by
    refine State.hasByte_of_contents (bs := bs ++ [b]) (hs.acceptByte hfull b) ?_
    rw [State.contents_acceptByte hs hfull, hbytes, List.cons_append]
  have hfull' : s.takeByte.isFull = false :=
    State.isFull_eq_false_of_free_pos (hs.takeByte hc) (by rw [State.free_takeByte hs hc]; exact Nat.succ_pos _)
  have hpop : exec .fifoPop ((s.acceptByte b).returned .p 1#32) =
      .next ((((s.acceptByte b).returned .p 1#32).takeByte).returned .q (zext32 c)) :=
    execFifoPop_of_hasByte ((State.sameBlock_returned _ _ _).symm.hasByte hc')
  have hpush : exec (.rxPush b) (s.takeByte.returned .q (zext32 c)) =
      .next (((s.takeByte.returned .q (zext32 c)).acceptByte b).returned .p 1#32) :=
    execRxPush_of_free b hfull' hs.head_lt
  exact ⟨_, _, _, execRxPush_of_free b hfull hs.head_lt, hpop, execFifoPop_of_hasByte hc, hpush⟩

end Sys2Proof.Machine
end

section
/-!
PROOFS. The framer's transition on one byte (41_framer.md R121 to R125), one equation for each branch, and what
`FRAMER_STEP` does with it (R126).
-/
namespace Sys2Proof.Machine

/-! The search for a header (R121): the first header byte starts it anew at every position. -/

theorem State.seekHeader_hdr0 (s : State) : s.seekHeader Config.hdr0 = (s.storeAcc 0 Config.hdr0).setPos 1#5 := by
  by_cases hp : s.pos = 0#5
  · rw [State.seekHeader, if_pos hp, if_pos rfl]
  · rw [State.seekHeader, if_neg hp, if_neg (by decide), if_pos rfl]

theorem State.seekHeader_hdr1 {s : State} (h : s.pos ≠ 0#5) :
    s.seekHeader Config.hdr1 = ((s.storeAcc 1 Config.hdr1).setPos 2#5).setFstate .accumulating := by
  rw [State.seekHeader, if_neg h, if_pos rfl]

theorem State.seekHeader_of_no_header {s : State} {b : Byte} (h0 : b ≠ Config.hdr0)
    (h1 : s.pos ≠ 0#5 → b ≠ Config.hdr1) : s.seekHeader b = s.setPos 0#5 := by
  unfold State.seekHeader
  split_ifs with hp hb
  · rfl
  · exact absurd hb (h1 hp)
  · rfl

/-! The candidate (R122): it grows below position 31, and at 31 it is whole and is rejected or emitted. -/

theorem State.accumulate_of_lt {s : State} (b : Byte) (h : s.pos.toNat < 31) :
    s.accumulate b = ((s.storeAcc s.pos.toNat b).setPos (s.pos + 1#5), .consumed) :=
  if_pos (Nat.succ_lt_succ h)

theorem State.accumulate_last {s : State} (b : Byte) (h : s.pos = 31#5) :
    s.accumulate b = if embeddedHeader (s.candidate b) then ((s.storeAcc 31 b).reject, .consumed)
      else ((s.storeAcc 31 b).emit, .frame) := by
  rw [← State.accByte_storeAcc_last, State.accumulate, h]
  rfl

theorem State.accumulate_reject {s : State} {b : Byte} (h : s.pos = 31#5) (he : HasEmbeddedHeader (s.candidate b)) :
    s.accumulate b = ((s.storeAcc 31 b).reject, .consumed) := by
  rw [s.accumulate_last b h, if_pos ((embeddedHeader_iff _).2 he)]

theorem State.accumulate_emit {s : State} {b : Byte} (h : s.pos = 31#5) (he : ¬ HasEmbeddedHeader (s.candidate b)) :
    s.accumulate b = ((s.storeAcc 31 b).emit, .frame) := by
  rw [s.accumulate_last b h, if_neg fun hscan => he ((embeddedHeader_iff _).1 hscan)]

/-! `FRAMER_STEP` with a byte to consume takes it off the FIFO and returns what became of it (R126). -/

theorem execFramerStep_of_seeking {s : State} {b : Byte} (hb : s.HasByte b) (hf : s.fstate = .seekingHeader) :
    exec .framerStep s = .next ((s.takeByte.seekHeader b).returned .q 1#32) := by
  rw [execFramerStep_of_hasByte hb, State.framerConsume_seeking (s := s.takeByte) hf]
  rfl

theorem execFramerStep_of_accumulating {s : State} {b : Byte} (hb : s.HasByte b) (hf : s.fstate = .accumulating) :
    exec .framerStep s =
      .next ((s.takeByte.accumulate b).1.returned .q (s.takeByte.accumulate b).2.outcome.code) := by
  rw [execFramerStep_of_hasByte hb, State.framerConsume_accumulating (s := s.takeByte) hf]

/-- Settles O26: the micro-step finds no byte, so only the result is written. -/
theorem framerStepOnEmpty : Obligations.FramerStepOnEmpty :=
  fun _ h => execFramerStep_of_ok (State.microStep_of_empty h)

/-- Settles O27: by the three kinds of byte, the first header byte, the second one behind it, and any other. -/
theorem framerSeeksHeader : Obligations.FramerSeeksHeader := by
  intro s b hb hf hpos
  rw [execFramerStep_of_seeking hb hf]
  split_ifs with h0 h1
  · obtain rfl := h0
    rw [State.seekHeader_hdr0]
    exact ⟨_, rfl, rfl, s.toNat_advance s.tail, hf, rfl, fun i => State.accByte_storeAcc s.takeByte 0 i Config.hdr0⟩
  · obtain ⟨hp, rfl⟩ := h1
    have hne : s.takeByte.pos ≠ 0#5 := by simp [hp]
    rw [State.seekHeader_hdr1 hne]
    exact ⟨_, rfl, rfl, s.toNat_advance s.tail, rfl, rfl,
      fun i => State.accByte_storeAcc s.takeByte 1 i Config.hdr1⟩
  · have hsecond : s.takeByte.pos ≠ 0#5 → b ≠ Config.hdr1 := fun hne hb1 => h1 ⟨hpos.resolve_left hne, hb1⟩
    rw [State.seekHeader_of_no_header h0 hsecond]
    exact ⟨_, rfl, rfl, s.toNat_advance s.tail, hf, rfl, rfl⟩

/-- Settles O28: the byte is stored whatever it is, as there is no whole candidate to look at. -/
theorem framerStoresBodyByte : Obligations.FramerStoresBodyByte := by
  intro s b hb hf hpos
  rw [execFramerStep_of_accumulating hb hf, State.accumulate_of_lt (s := s.takeByte) b hpos]
  exact ⟨_, rfl, rfl, s.toNat_advance s.tail, toNat_pos_succ (Nat.succ_lt_succ hpos),
    fun i => State.accByte_storeAcc s.takeByte _ i b⟩

/-- Settles O29: the scan of the whole candidate finds nothing, so `FRAME` takes its 32 bytes. -/
theorem framerEmitsFrame : Obligations.FramerEmitsFrame := by
  intro s b hb hf hpos hscan
  have hacc := State.accByte_storeAcc_last s.takeByte b
  rw [execFramerStep_of_accumulating hb hf, State.accumulate_emit (s := s.takeByte) hpos hscan]
  exact ⟨_, rfl, rfl, s.toNat_advance s.tail, congrFun hacc,
    fun i hi => (State.frameByte_emit _ hi).trans (congrFun hacc i)⟩

/-- Settles O30: the scan of the whole candidate finds the pair, and a reject leaves the frame register as it is. -/
theorem framerRejectsEmbeddedHeader : Obligations.FramerRejectsEmbeddedHeader := by
  intro s b hb hf hpos hscan
  rw [execFramerStep_of_accumulating hb hf, State.accumulate_reject (s := s.takeByte) hpos hscan]
  exact ⟨_, rfl, rfl, s.toNat_advance s.tail, congrFun (State.accByte_storeAcc_last s.takeByte b)⟩

theorem State.frameValid_of_framerConsume_eq_frame {s : State} {b : Byte} (h : (s.framerConsume b).2 = .frame) :
    (s.framerConsume b).1.frameValid = true := by
  obtain ⟨-, hc⟩ | ⟨-, -, hc⟩ | ⟨-, -, -, hc⟩ | ⟨-, -, hc⟩ | ⟨-, -, -, hc⟩ | ⟨-, -, -, hc⟩ :=
    s.framerConsume_cases b
  iterate 5 rw [hc] at h; cases h
  rw [hc]
  rfl

/-- Settles O36: the framer keeps the invariant, which says of a frame held that it is a valid one. -/
theorem emittedFrameIsValid : Obligations.EmittedFrameIsValid := by
  intro s t hs hexec hresult
  obtain ⟨u, o, hu, rfl⟩ := execFramerStep_next hexec
  obtain ⟨-, -, rfl⟩ | ⟨b, hb, rfl, rfl⟩ := State.microStep_ok hu
  · cases hresult
  · have hinv := (hs.takeByte hb).framerConsume b
    have hvalid := State.frameValid_of_framerConsume_eq_frame (ConsumeResult.eq_frame_of_code hresult)
    obtain ⟨h0, h1⟩ := hinv.frame_hdr hvalid
    exact ⟨hvalid, h0, h1, hinv.frame_scan hvalid⟩

end Sys2Proof.Machine
end

section
/-!
PROOFS. The poll (41_framer.md R127): its micro-steps, at its issue and in flight, are framer steps, and it ends on an
empty FIFO and on a frame only (70_reset_and_hazards.md R186).
-/
namespace Sys2Proof.Machine

/-- What a micro-step leaves of a poll, told by the state `v` that `FRAMER_STEP` answers: the poll ends with 0 or 1, or
it is in flight and the Q port still shows `q`. -/
def State.PollOf (v t : State) (q : Option ResultWord) : Prop :=
  (v.qResult = some 0#32 ∧ t = { v with pollInFlight := false, qResult := some 0#32 }) ∨
  (v.qResult = some 1#32 ∧ t = { v with pollInFlight := true, qResult := q }) ∨
  (v.qResult = some 2#32 ∧ t = { v with pollInFlight := false, qResult := some 1#32 })

theorem State.pollOf_afterMicroStep (u : State) (o : StepOutcome) (q : Option ResultWord) :
    (u.returned .q o.code).PollOf ((u.setPoll true q).afterMicroStep o) q := by
  cases o with
  | empty => exact .inl ⟨rfl, rfl⟩
  | consumed => exact .inr (.inl ⟨rfl, rfl⟩)
  | frame => exact .inr (.inr ⟨rfl, rfl⟩)

/-- A poll that has begun on `s` steps where `FRAMER_STEP` on `s` does. -/
theorem State.pollStep_setPoll {s v : State} (q : Option ResultWord) (h : exec .framerStep s = .next v) :
    ∃ t, (s.setPoll true q).pollStep = .next t ∧ v.PollOf t q := by
  obtain ⟨u, o, hu, rfl⟩ := execFramerStep_next h
  exact ⟨_, State.pollStep_of_ok (State.microStep_setPoll hu true q), State.pollOf_afterMicroStep u o q⟩

/-- Settles O31: the poll's first micro-step is that of `FRAMER_STEP`, taken with the poll begun. -/
theorem framerPollTakesFirstMicroStep : Obligations.FramerPollTakesFirstMicroStep := by
  intro s h
  obtain ⟨u, o, hu⟩ := State.microStep_ok_of_lt h
  have hstep : exec .framerStep s = .next (u.returned .q o.code) := execFramerStep_of_ok hu
  obtain ⟨t, hpoll, ht⟩ := State.pollStep_setPoll none hstep
  exact ⟨_, t, hstep, hpoll, ht⟩

/-! The steps that go to the poll in flight (R20, R59; log 2). -/

theorem step_of_no_action {s : State} (hin : s.inputs = []) (hp : s.pollInFlight = true) : step s = s.pollStep := by
  simp [step, State.agentStep, State.pollTurn, hin, hp]

theorem step_of_waiting_command {s : State} {w : CommandWord} {rest : List AgentAction}
    (hin : s.inputs = .command .q w :: rest) (hp : s.pollInFlight = true) : step s = s.pollStep := by
  simp [step, State.agentStep, State.busy, hin, hp]

theorem step_of_pollTurn {s : State} {rest : List AgentAction} (hin : s.inputs = .pollTurn :: rest)
    (hp : s.pollInFlight = true) : step s = { s with inputs := rest }.pollStep := by
  simp [step, State.agentStep, State.pollTurn, hin, hp]

/-- Settles O10: each of the three steps is the poll's micro-step. -/
theorem pollGoesOnByMicroSteps : Obligations.PollGoesOnByMicroSteps := by
  intro s s0 u hp hturn hexec
  obtain ⟨hstep, hp0, hq0⟩ : step s = s0.pollStep ∧ s0.pollInFlight = true ∧ s0.qResult = s.qResult := by
    obtain ⟨hin, rfl⟩ | ⟨⟨w, rest, hin⟩, rfl⟩ | ⟨rest, hin, rfl⟩ := hturn
    · exact ⟨step_of_no_action hin hp, hp, rfl⟩
    · exact ⟨step_of_waiting_command hin hp, hp, rfl⟩
    · exact ⟨step_of_pollTurn hin hp, hp, rfl⟩
  have hset : s0.setPoll true s.qResult = s0 := by rw [← hp0, ← hq0]; rfl
  have hpu : u.pollInFlight = true := by
    obtain ⟨v, o, hv, rfl⟩ := execFramerStep_next hexec
    exact (State.microStep_pollInFlight hv).trans hp0
  obtain ⟨t, hpoll, hempty | ⟨hone, rfl⟩ | hframe⟩ := State.pollStep_setPoll s.qResult hexec
  all_goals rw [hset] at hpoll; rw [hstep, hpoll]
  · exact .inl ⟨hempty.1, congrArg _ hempty.2⟩
  · exact .inr (.inl ⟨hone, by rw [← hpu]⟩)
  · exact .inr (.inr ⟨hframe.1, congrArg _ hframe.2⟩)

/-- A push shows the consumer's side nothing: the poll in flight and the Q port's result stay. -/
theorem execRxPush_keeps_poll {s t : State} {b : Byte} (h : exec (.rxPush b) s = .next t) :
    t.pollInFlight = s.pollInFlight ∧ t.qResult = s.qResult := by
  obtain ⟨-, rfl⟩ | ⟨-, -, rfl⟩ := execRxPush_next h <;> exact ⟨rfl, rfl⟩

theorem exists_rxPush_of_port {i : Instr} (h : i.port = .p) : ∃ b, i = .rxPush b := by
  cases i with
  | rxPush b => exact ⟨b, rfl⟩
  | fifoAvail | fifoPop | framerStep | framerPoll | frameRead _ | chanDecode _ | statusRead => cases h

/-- While a poll is in flight only the P port is free (R20). -/
theorem State.eq_p_of_not_busy {s : State} {port : Port} (hp : s.pollInFlight = true) (h : s.busy port = false) :
    port = .p := by
  cases port with
  | p => rfl
  | q => exact absurd (hp.symm.trans h) (by decide)

/-- A micro-step of a poll in flight, told of a state `s` that differs on the agents' side at most: no end, or one of
the two ends. -/
theorem State.SameBlock.pollStep_ends {s s' t : State} (hsame : s.SameBlock s') (h : s'.pollStep = .next t) :
    (t.pollInFlight = s'.pollInFlight ∧ t.qResult = s'.qResult) ∨
    (t.pollInFlight = false ∧
      ((s.head = s.tail ∧ t.qResult = some 0#32) ∨
       (t.qResult = some 1#32 ∧ ∃ u, exec .framerStep s = .next u ∧ u.qResult = some 2#32))) := by
  obtain ⟨u, o, hu, rfl⟩ := State.pollStep_next h
  cases o with
  | consumed => exact .inl ⟨State.microStep_pollInFlight hu, State.microStep_qResult hu⟩
  | empty =>
    obtain ⟨he, -, -⟩ | ⟨b, -, -, ho⟩ := State.microStep_ok hu
    · exact .inr ⟨rfl, .inl ⟨hsame.head.symm.trans (he.trans hsame.tail), rfl⟩⟩
    · exact absurd ho.symm (ConsumeResult.outcome_ne_empty _)
  | frame =>
    obtain ⟨-, ho⟩ | ⟨b, hb, -, ho⟩ := hsame.microStep hu
    · cases ho
    · exact .inr ⟨rfl, .inr ⟨rfl, _, execFramerStep_of_hasByte hb, by rw [← ho]; rfl⟩⟩

/-- Settles O53: of the steps that are no reset only a micro-step can end the poll; the others are on the P port or
pass. -/
theorem pollReturnsOnlyOnEmptyOrFrame : Obligations.PollReturnsOnlyOnEmptyOrFrame := by
  intro s t hp hstep hreset
  cases step_kind hstep with
  | pass rest ht => subst ht; exact .inl ⟨hp, rfl⟩
  | pollStep rest _ hin hpoll =>
    obtain ⟨hp', hq'⟩ | ⟨hp', hends⟩ := (s.sameBlock_inputs rest).pollStep_ends hpoll
    · exact .inl ⟨hp'.trans hp, hq'⟩
    · exact .inr ⟨hp', hin, hends⟩
  | turnedAway port code rest hbusy ht =>
    obtain rfl := State.eq_p_of_not_busy hp hbusy
    subst ht
    exact .inl ⟨hp, rfl⟩
  | exec i rest _ hbusy hexec =>
    obtain ⟨b, rfl⟩ := exists_rxPush_of_port (State.eq_p_of_not_busy hp hbusy)
    obtain ⟨hp', hq'⟩ := execRxPush_keeps_poll hexec
    exact .inl ⟨hp'.trans hp, hq'⟩
  | reset rest hin _ => exact absurd ⟨rest, hin⟩ hreset

end Sys2Proof.Machine
end

section
/-!
PROOFS. Who moves the framer (41_framer.md R128; 10_state.md R31, R32), and that its outcomes and frames over a sequence
of bytes are fixed by those bytes (R129).
-/
namespace Sys2Proof.Machine

theorem State.SameBlock.framer {s t : State} (h : s.SameBlock t) :
    t.fstate = s.fstate ∧ t.pos = s.pos ∧ t.accbuf = s.accbuf ∧ t.frame = s.frame ∧
      t.frameValid = s.frameValid := by
  obtain ⟨_, _, _, _, rfl⟩ := h
  exact ⟨rfl, rfl, rfl, rfl, rfl⟩

/-- Settles O46: by the effect of the step; each of the three ways to run the framer is among the excluded steps. -/
theorem onlyFramerStepsMoveFramer : Obligations.OnlyFramerStepsMoveFramer := by
  intro s t hstep hreset hpoll hcommand
  cases step_effect hstep with
  | same h | fault _ h | push _ _ _ _ _ h | pop _ _ _ _ h => exact h.framer
  | framer _ _ hrun _ =>
    cases hrun with
    | step rest hin _ _ => exact absurd hin (hcommand rest).1
    | issue rest hin _ _ => exact absurd hin (hcommand rest).2
    | inFlight hp hin _ =>
      obtain hidle | ⟨w, rest, hpush⟩ := hpoll
      · exact absurd (hp.symm.trans hidle) (by decide)
      · exact absurd hpush (hin w rest)
  | reset rest hin _ => exact absurd ⟨rest, hin⟩ hreset

/-- With both indices in range and a byte held, `FRAMER_STEP` consumes it and leaves both indices in range and the
other bytes. -/
theorem execFramerStep_of_contents {s : State} {b : Byte} {bs : List Byte} (hh : s.head.toNat < s.cap)
    (ht : s.tail.toNat < s.cap) (h : s.contents = b :: bs) :
    s.HasByte b ∧ ∃ t, exec .framerStep s = .next t ∧ t.head.toNat < t.cap ∧ t.tail.toNat < t.cap ∧
      t.contents = bs := by
  have hne : s.head ≠ s.tail := fun he => by simp [(s.contents_eq_nil_iff hh ht).2 he] at h
  have htake : s.contents = s.fifoByte s.tail.toNat :: s.takeByte.contents :=
    State.contents_consume hh ht hne rfl rfl rfl rfl rfl
  rw [h, List.cons.injEq] at htake
  obtain ⟨hbyte, hrest⟩ := htake
  have hb : s.HasByte b := ⟨hne, ht, hbyte.symm⟩
  refine ⟨hb, _, execFramerStep_of_hasByte hb, ?_, ?_, ?_⟩
  · simpa [State.cap] using hh
  · simpa [State.cap] using s.advance_lt s.tail
  · rw [(State.sameBlock_returned _ _ _).contents, State.contents_framerConsume, hrest]

/-- What `framerAll` lists for a framer step that answers `t`: its result, and the frame on an emit. -/
def State.framerOutcome (t : State) : Option ResultWord × List Byte :=
  (t.qResult, if t.qResult = some 2#32 then (List.range 32).map t.frameByte else [])

theorem State.framerOutcome_congr {t₁ t₂ : State} (hq : t₁.qResult = t₂.qResult)
    (hframe : t₁.qResult = some 2#32 → ∀ i < 32, t₁.frameByte i = t₂.frameByte i) :
    t₁.framerOutcome = t₂.framerOutcome := by
  unfold State.framerOutcome
  rw [← hq]
  split
  · rename_i hemit
    rw [List.map_congr_left fun i hi => hframe hemit i (List.mem_range.1 hi)]
  · rfl

theorem State.framerAll_succ {s t u : State} {n : Nat} {outcomes : List (Option ResultWord × List Byte)}
    (h : exec .framerStep s = .next t) (hrest : State.framerAll n t = some (u, outcomes)) :
    State.framerAll (n + 1) s = some (u, t.framerOutcome :: outcomes) := by
  simp [State.framerAll, h, hrest, State.framerOutcome]

/-- Settles O55, by induction on the bytes: over one of them framers that agree give the same outcome and agree
again. -/
theorem framerOutputDependsOnlyOnBytes : Obligations.FramerOutputDependsOnlyOnBytes := by
  intro s₁ s₂ bs rest₁ rest₂
  induction bs generalizing s₁ s₂ with
  | nil => exact fun _ _ _ _ hc₁ hc₂ hf hp hacc => ⟨s₁, s₂, [], rfl, rfl, hc₁, hc₂, hf, hp, hacc⟩
  | cons b bs ih =>
    intro hh₁ ht₁ hh₂ ht₂ hc₁ hc₂ hf hp hacc
    obtain ⟨hb₁, t₁, hexec₁, hh₁', ht₁', hc₁'⟩ := execFramerStep_of_contents hh₁ ht₁ hc₁
    obtain ⟨hb₂, t₂, hexec₂, hh₂', ht₂', hc₂'⟩ := execFramerStep_of_contents hh₂ ht₂ hc₂
    obtain ⟨hq, hf', hp', hacc', hframe⟩ :=
      framerDependsOnlyOnBytes s₁ s₂ t₁ t₂ b hb₁ hb₂ hf hp hacc hexec₁ hexec₂
    obtain ⟨u₁, u₂, outcomes, hall₁, hall₂, hend⟩ := ih t₁ t₂ hh₁' ht₁' hh₂' ht₂' hc₁' hc₂' hf' hp' hacc'
    have hall₂' := State.framerAll_succ hexec₂ hall₂
    rw [← State.framerOutcome_congr hq hframe] at hall₂'
    exact ⟨u₁, u₂, t₁.framerOutcome :: outcomes, State.framerAll_succ hexec₁ hall₁, hall₂', hend⟩

end Sys2Proof.Machine
end

section
/-!
PROOFS. What `FRAME_READ` returns (42_frame_readout.md R140), with and without a frame in the register (10_state.md R31).
-/
namespace Sys2Proof.Machine

theorem State.frameByte_of_frame_eq_nil {s : State} (h : s.frame = []) (i : Nat) :
    s.frameByte i = Config.unspecifiedByte .frame s.epoch i := by
  rw [State.frameByte, h, Memory.read?_nil, Option.getD_none]

/-- Settles O37: the operation returns its operand, and by the invariant no cell of the register is written before
the first emit. -/
theorem frameReadResult : Obligations.FrameReadResult := fun s i =>
  ⟨exec_frameRead s i, fun hs hvalid => State.frameByte_of_frame_eq_nil (hs.frame_unwritten hvalid) i.toNat⟩

end Sys2Proof.Machine
end

section
/-!
PROOFS. No fault stops the block, and none changes what it does (60_exceptions.md R163): a state of the invariant always
has a next one, and no operation but `STATUS_READ` reads the recorded code.
-/
namespace Sys2Proof.Machine

/-- Settles O43: both indices name slots, which is all that a step asks for. -/
theorem stepNeverStops : Obligations.StepNeverStops :=
  fun _ hs => step_of_indices_lt hs.head_lt hs.tail_lt

/-- `s` with another fault code recorded. -/
def State.withFault (s : State) (f : BitVec 4) : State := { s with fault := f }

@[simp] theorem State.withFault_pos (s : State) (f : BitVec 4) : (s.withFault f).pos = s.pos := rfl

/-- The framer never reads `FAULT`: it does the same whatever is recorded there. -/
theorem State.framerConsume_withFault (s : State) (b : Byte) (f : BitVec 4) :
    (s.withFault f).framerConsume b = ((s.framerConsume b).1.withFault f, (s.framerConsume b).2) := by
  cases hf : s.fstate with
  | seekingHeader =>
    rw [State.framerConsume_seeking hf, State.framerConsume_seeking (s := s.withFault f) hf]
    unfold State.seekHeader
    rw [State.withFault_pos]
    split_ifs <;> rfl
  | accumulating =>
    rw [State.framerConsume_accumulating hf, State.framerConsume_accumulating (s := s.withFault f) hf]
    have hacc : ((s.withFault f).storeAcc s.pos.toNat b).accByte = (s.storeAcc s.pos.toNat b).accByte := rfl
    unfold State.accumulate
    simp only [State.withFault_pos, hacc]
    split_ifs <;> rfl

theorem State.microStep_withFault {s u : State} {o : StepOutcome} (h : s.microStep = .ok (u, o)) (f : BitVec 4) :
    (s.withFault f).microStep = .ok (u.withFault f, o) := by
  obtain ⟨he, rfl, rfl⟩ | ⟨b, hb, rfl, rfl⟩ := State.microStep_ok h
  · exact State.microStep_of_empty (s := u.withFault f) he
  · rw [State.microStep_of_hasByte (s := s.withFault f) hb,
      show (s.withFault f).takeByte = s.takeByte.withFault f from rfl, State.framerConsume_withFault]

theorem State.pollStep_withFault {s t : State} (h : s.pollStep = .next t) (f : BitVec 4) :
    (s.withFault f).pollStep = .next (t.withFault f) := by
  obtain ⟨u, o, hu, rfl⟩ := State.pollStep_next h
  rw [State.pollStep_of_ok (State.microStep_withFault hu f)]
  cases o <;> rfl

/-- Settles O49: each operation answers in the branch it takes with the recorded code, as none of
its checks reads `FAULT`; only the pop of an empty buffer then writes it, and records its own code or keeps `f`. -/
theorem faultDoesNotChangeOperations : Obligations.FaultDoesNotChangeOperations := by
  intro s t f i hi h
  cases i with
  | rxPush b =>
    obtain ⟨hfull, rfl⟩ | ⟨hfull, hlt, rfl⟩ := execRxPush_next h
    · exact ⟨_, execRxPush_of_full (s := s.withFault f) b hfull, rfl⟩
    · exact ⟨_, execRxPush_of_free (s := s.withFault f) b hfull hlt, rfl⟩
  | fifoPop =>
    obtain ⟨he, rfl⟩ | ⟨hne, hlt, rfl⟩ := execFifoPop_next h
    · exact ⟨_, execFifoPop_of_empty (s := s.withFault f) he, rfl⟩
    · exact ⟨_, execFifoPop_of_hasByte (s := s.withFault f) ⟨hne, hlt, rfl⟩, rfl⟩
  | framerStep =>
    obtain ⟨u, o, hu, rfl⟩ := execFramerStep_next h
    exact ⟨_, execFramerStep_of_ok (State.microStep_withFault hu f), rfl⟩
  | framerPoll => exact ⟨_, State.pollStep_withFault (s := s.beginPoll) h f, rfl⟩
  | fifoAvail | frameRead _ | chanDecode _ => cases h; exact ⟨_, rfl, rfl⟩
  | statusRead => exact absurd rfl hi

end Sys2Proof.Machine
end

section
/-!
PROOFS. A run with no reset that ends well was well all along (60_exceptions.md R163): no step adds a reset to the actions
to come, and only a reset clears `FAULT` (10_state.md R33).
-/
namespace Sys2Proof.Machine

theorem State.microStep_inputs {s u : State} {o : StepOutcome} (h : s.microStep = .ok (u, o)) :
    u.inputs = s.inputs := by
  obtain ⟨-, rfl, -⟩ | ⟨b, -, rfl, -⟩ := State.microStep_ok h
  · rfl
  · simp

theorem State.pollStep_inputs {s t : State} (h : s.pollStep = .next t) : t.inputs = s.inputs := by
  obtain ⟨u, o, hu, rfl⟩ := State.pollStep_next h
  have hinputs := State.microStep_inputs hu
  cases o <;> exact hinputs

theorem State.returned_inputs (s : State) (port : Port) (r : ResultWord) : (s.returned port r).inputs = s.inputs := by
  cases port <;> rfl

theorem exec_inputs {i : Instr} {s t : State} (h : exec i s = .next t) : t.inputs = s.inputs := by
  cases exec_kind h with
  | result r ht => rw [ht, State.returned_inputs]
  | popEmpty _ ht | push _ _ _ _ ht | pop _ _ ht => subst ht; rfl
  | framerStep _ u o hu ht => rw [ht, State.returned_inputs, State.microStep_inputs hu]
  | framerPoll _ hpoll => exact State.pollStep_inputs (s := s.beginPoll) hpoll

/-- A step takes at most the first of the actions to come (R59). -/
theorem step_inputs_suffix {s t : State} (h : step s = .next t) : t.inputs <:+ s.inputs := by
  obtain ⟨-, -, rfl⟩ | ⟨-, -, hpoll⟩ | ⟨_, _, -, -, hpoll⟩ | ⟨rest, hin, -, rfl⟩ | ⟨rest, hin, -, hpoll⟩ |
    ⟨port, w, rest, code, hin, -, -, rfl⟩ | ⟨port, w, rest, i, hin, -, -, hexec⟩ | ⟨rest, hin, rfl⟩ := step_cases h
  · exact List.suffix_rfl
  · rw [State.pollStep_inputs hpoll]
  · rw [State.pollStep_inputs hpoll]
  · rw [hin]; exact List.suffix_cons _ rest
  · rw [State.pollStep_inputs hpoll, hin]; exact List.suffix_cons _ rest
  · rw [hin, State.raiseFault, State.returned_inputs]; exact List.suffix_cons _ rest
  · rw [exec_inputs hexec, hin]; exact List.suffix_cons _ rest
  · rw [hin]; exact List.suffix_cons _ rest

theorem State.reset_notMem_of_run {draw : Draw} {n : Nat} {s t : State} (hdraw : ∀ k, AgentAction.reset ∉ draw k)
    (hs : AgentAction.reset ∉ s.inputs) (h : s.run draw n = some t) : AgentAction.reset ∉ t.inputs := by
  induction n generalizing t with
  | zero => cases h; exact hs
  | succ n ih =>
    obtain ⟨u, hrun, hstep⟩ := State.run_succ_inv h
    exact fun hmem => (List.mem_append.1 ((step_inputs_suffix hstep).mem hmem)).elim (ih hrun) (hdraw n)

/-- The block that has gone wrong stays so over every step but a reset (R33). -/
theorem State.GoneWrong.step {s t : State} (hs : s.GoneWrong) (hreset : AgentAction.reset ∉ s.inputs)
    (h : step s = .next t) : t.GoneWrong := by
  obtain ⟨rest, hin, -⟩ | hkept | ⟨hzero, -⟩ := faultIsSticky.1 s t h
  · exact absurd (hin ▸ List.mem_cons_self) hreset
  · exact fun hzero => hs (hkept.symm.trans hzero)
  · exact absurd hzero hs

/-- Settles O56, by going back from the end one step at a time. -/
theorem cleanEndMeansCleanRun : Obligations.CleanEndMeansCleanRun := by
  intro draw m n s t hmn hdraw hs hend
  induction hmn generalizing t with
  | refl => exact ⟨t, hend⟩
  | @step n _ ih =>
    obtain ⟨hrun, hwell⟩ := hend
    obtain ⟨u, hrun', hstep⟩ := State.run_succ_inv hrun
    have hreset : AgentAction.reset ∉ (u.arrive (draw n)).inputs := fun hmem =>
      (List.mem_append.1 hmem).elim (State.reset_notMem_of_run hdraw hs hrun') (hdraw n)
    exact ih u ⟨hrun', fun hwrong => hwell (State.GoneWrong.step (s := u.arrive (draw n)) hwrong hreset hstep)⟩

end Sys2Proof.Machine
end

section
/-!
PROOFS. A poll in flight while no other agent acts (41_framer.md R127; log 2): every step takes the oldest byte held
through the framer, so the bytes held bound the poll (60_exceptions.md R164).
-/
namespace Sys2Proof.Machine

/-- A poll is in flight on a block of the invariant, and no action is to come. -/
structure State.PollAlone (s : State) : Prop where
  inv : s.Inv
  inFlight : s.pollInFlight = true
  no_action : s.inputs = []

/-- With no byte held the poll returns 0. -/
theorem State.PollAlone.step_of_empty {s : State} (h : s.PollAlone) (hbytes : s.contents = []) :
    step s = .next (s.endPoll 0#32) := by
  rw [step_of_no_action h.no_action h.inFlight]
  exact State.pollStep_of_ok
    (State.microStep_of_empty ((s.contents_eq_nil_iff h.inv.head_lt h.inv.tail_lt).1 hbytes))

/-- A byte that completes no frame lets the poll go on, with one byte less held. -/
theorem State.PollAlone.step_of_consumed {s u : State} {b : Byte} {bs : List Byte} (h : s.PollAlone)
    (hbytes : s.contents = b :: bs) (hc : s.takeByte.framerConsume b = (u, .consumed)) :
    step s = .next u ∧ u.PollAlone ∧ u.contents = bs ∧ u.fault = s.fault := by
  obtain ⟨hb, hrest⟩ := State.takeByte_of_contents h.inv hbytes
  obtain rfl : (s.takeByte.framerConsume b).1 = u := by rw [hc]
  refine ⟨?_, ⟨(h.inv.takeByte hb).framerConsume b, ?_, ?_⟩, ?_, ?_⟩
  · rw [step_of_no_action h.no_action h.inFlight, State.pollStep_of_ok (State.microStep_of_hasByte hb), hc]
    rfl
  · simpa using h.inFlight
  · simpa using h.no_action
  · rw [State.contents_framerConsume, hrest]
  · simp

/-- A byte that completes a frame ends the poll with 1. -/
theorem State.PollAlone.step_of_frame {s u : State} {b : Byte} {bs : List Byte} (h : s.PollAlone)
    (hbytes : s.contents = b :: bs) (hc : s.takeByte.framerConsume b = (u, .frame)) :
    step s = .next (u.endPoll 1#32) ∧ u.contents = bs ∧ u.fault = s.fault := by
  obtain ⟨hb, hrest⟩ := State.takeByte_of_contents h.inv hbytes
  obtain rfl : (s.takeByte.framerConsume b).1 = u := by rw [hc]
  refine ⟨?_, ?_, ?_⟩
  · rw [step_of_no_action h.no_action h.inFlight, State.pollStep_of_ok (State.microStep_of_hasByte hb), hc]
    rfl
  · rw [State.contents_framerConsume, hrest]
  · simp

theorem State.steps_one {s t : State} (h : step s = .next t) : State.steps 1 s = some t := State.steps_succ 0 h

/-- A poll alone ends, by induction on the bytes held: without a frame it goes on with one byte less, and without a byte
it returns. -/
theorem State.PollAlone.terminates {s : State} {bs : List Byte} (h : s.PollAlone) (hbytes : s.contents = bs) :
    ∃ n ≤ bs.length + 1, ∃ t, State.steps n s = some t ∧ t.pollInFlight = false ∧
      (t.qResult = some 0#32 ∨ t.qResult = some 1#32) ∧ t.fault = s.fault := by
  induction bs generalizing s with
  | nil => exact ⟨1, le_rfl, _, State.steps_one (h.step_of_empty hbytes), rfl, .inl rfl, rfl⟩
  | cons b bs ih =>
    obtain ⟨u, r, hc⟩ : ∃ u r, s.takeByte.framerConsume b = (u, r) := ⟨_, _, rfl⟩
    cases r with
    | consumed =>
      obtain ⟨hstep, hu, hrest, hfault⟩ := h.step_of_consumed hbytes hc
      obtain ⟨n, hn, t, hsteps, hp, hq, hfault'⟩ := ih hu hrest
      exact ⟨n + 1, Nat.succ_le_succ hn, t, (State.steps_succ n hstep).trans hsteps, hp, hq, hfault'.trans hfault⟩
    | frame =>
      obtain ⟨hstep, -, hfault⟩ := h.step_of_frame hbytes hc
      exact ⟨1, Nat.le_add_left 1 _, _, State.steps_one hstep, rfl, .inr rfl, hfault⟩

/-- Settles O32: `COUNT` is the number of bytes held. -/
theorem pollTerminates : Obligations.PollTerminates := by
  intro s hs hp hin
  rw [← s.length_contents]
  exact State.PollAlone.terminates ⟨hs, hp, hin⟩ rfl

end Sys2Proof.Machine
end

section
/-!
PROOFS. A candidate at the head of the bytes held (41_framer.md R120 to R125, R132): 31 micro-steps of the poll collect
its bytes in `ACCBUF`, and the 32nd emits it as a frame or rejects it.
-/
namespace Sys2Proof.Machine

/-- The framer's state once it has stored `k` bytes of a candidate (R28, R29). -/
def framerStateAt (k : Nat) : FramerState := if k < 2 then .seekingHeader else .accumulating

/-- The next byte of a candidate is stored at its position and does not complete it, if the first two are the header. -/
theorem State.framerConsume_of_candidate {s : State} {b : Byte} {k : Nat} (hk : k < 31)
    (hf : s.fstate = framerStateAt k) (hp : s.pos = BitVec.ofNat 5 k)
    (h0 : k = 0 → b = Config.hdr0) (h1 : k = 1 → b = Config.hdr1) :
    s.framerConsume b =
      (((s.storeAcc k b).setPos (BitVec.ofNat 5 (k + 1))).setFstate (framerStateAt (k + 1)), .consumed) := by
  obtain rfl | rfl | hk2 : k = 0 ∨ k = 1 ∨ 2 ≤ k := by omega
  · have hf' : s.fstate = .seekingHeader := hf
    rw [State.framerConsume_seeking hf', h0 rfl, State.seekHeader_hdr0,
      show framerStateAt (0 + 1) = s.fstate from hf'.symm]
    rfl
  · rw [State.framerConsume_seeking hf, h1 rfl, State.seekHeader_hdr1 (by simp [hp])]
    rfl
  · have hf' : s.fstate = .accumulating := hf.trans (if_neg (by omega))
    have hpos : s.pos.toNat = k := by
      rw [hp, BitVec.toNat_ofNat]
      exact Nat.mod_eq_of_lt (by omega)
    have hnext : framerStateAt (k + 1) = s.fstate := (if_neg (by omega)).trans hf'.symm
    rw [State.framerConsume_accumulating hf', State.accumulate_of_lt b (by omega), hpos, hnext, hp,
      BitVec.ofNat_add]
    rfl

/-- `t` is what `k` steps from `s` leave of a poll alone that has come to the candidate `frame`, with the bytes `rest`
behind it: its first `k` bytes are in `ACCBUF`, the others still held, and the frame register and `FAULT` untouched. -/
structure State.Collected (s : State) (frame rest : List Byte) (k : Nat) (t : State) : Prop where
  steps : State.steps k s = some t
  alone : t.PollAlone
  fstate : t.fstate = framerStateAt k
  pos : t.pos = BitVec.ofNat 5 k
  stored : ∀ i < k, frame[i]? = some (t.accByte i)
  contents : t.contents = frame.drop k ++ rest
  frame_kept : t.frame = s.frame ∧ t.frameValid = s.frameValid
  fault_kept : t.fault = s.fault

theorem State.steps_succ_last {s t u : State} {n : Nat} (h : State.steps n s = some t) (hu : step t = .next u) :
    State.steps (n + 1) s = some u := by
  rw [State.steps_add, h]
  exact State.steps_one hu

/-- The next byte of the candidate is at the head of the bytes held. -/
theorem State.Collected.contents_eq_cons {s t : State} {frame rest : List Byte} {k : Nat}
    (h : s.Collected frame rest k t) {b : Byte} (hb : frame[k]? = some b) :
    t.contents = b :: (frame.drop (k + 1) ++ rest) := by
  obtain ⟨hk, rfl⟩ := List.getElem?_eq_some_iff.1 hb
  rw [h.contents, List.drop_eq_getElem_cons hk, List.cons_append]

theorem State.Collected.next {s t : State} {frame rest : List Byte} {k : Nat} (h : s.Collected frame rest k t)
    (hk : k < 31) (hlen : frame.length = 32) (h0 : frame[0]? = some Config.hdr0) (h1 : frame[1]? = some Config.hdr1) :
    ∃ u, s.Collected frame rest (k + 1) u := by
  obtain ⟨b, hb⟩ : ∃ b, frame[k]? = some b := ⟨_, List.getElem?_eq_getElem (by omega)⟩
  have hc := State.framerConsume_of_candidate (s := t.takeByte) (b := b) hk h.fstate h.pos
    (fun hk0 => by rw [hk0, h0] at hb; exact (Option.some.inj hb).symm)
    (fun hk1 => by rw [hk1, h1] at hb; exact (Option.some.inj hb).symm)
  obtain ⟨hstep, halone, hrest, hfault⟩ := h.alone.step_of_consumed (h.contents_eq_cons hb) hc
  refine ⟨_, State.steps_succ_last h.steps hstep, halone, rfl, rfl, fun i hi => ?_, hrest, h.frame_kept,
    hfault.trans h.fault_kept⟩
  simp only [State.setFstate_accByte, State.setPos_accByte, State.accByte_storeAcc]
  split
  · rename_i hik
    rw [hik, hb]
  · exact h.stored i (by omega)

/-- A poll alone that seeks at position 0 collects all bytes of a candidate but the last. -/
theorem State.PollAlone.exists_collected {s : State} {frame rest : List Byte} (h : s.PollAlone)
    (hf : s.fstate = .seekingHeader) (hp : s.pos = 0#5) (hbytes : s.contents = frame ++ rest)
    (hlen : frame.length = 32) (h0 : frame[0]? = some Config.hdr0) (h1 : frame[1]? = some Config.hdr1) :
    ∀ k ≤ 31, ∃ t, s.Collected frame rest k t := by
  intro k hk
  induction k with
  | zero => exact ⟨s, rfl, h, hf, hp, fun _ hi => absurd hi (Nat.not_lt_zero _), hbytes, ⟨rfl, rfl⟩, rfl⟩
  | succ k ih =>
    obtain ⟨t, ht⟩ := ih (Nat.le_of_succ_le hk)
    exact ht.next hk hlen h0 h1

/-- With its last byte the candidate is the whole list. -/
theorem State.Collected.candidate {s t : State} {frame rest : List Byte} (h : s.Collected frame rest 31 t) {b : Byte}
    (hb : frame[31]? = some b) : ∀ i < 32, frame[i]? = some (t.candidate b i) := by
  intro i hi
  unfold State.candidate
  split
  · rename_i h31
    rw [h31, hb]
  · exact h.stored i (by omega)

/-- The scan of R123 on the bytes of the candidate, as a list. -/
theorem hasEmbeddedHeader_iff_of_list {a : Nat → Byte} {frame : List Byte} (h : ∀ i < 32, frame[i]? = some (a i)) :
    HasEmbeddedHeader a ↔ ∃ i, 2 ≤ i ∧ i ≤ 30 ∧ frame[i]? = some 0x20#8 ∧ frame[i + 1]? = some 0x40#8 := by
  refine exists_congr fun i => and_congr_right fun _ => and_congr_right fun hi => ?_
  rw [h i (by omega), h (i + 1) (by omega), Option.some_inj, Option.some_inj]

/-- The first 31 bytes of a candidate are collected, and its last one is next. -/
theorem State.PollAlone.exists_collected_last {s : State} {frame rest : List Byte} (h : s.PollAlone)
    (hf : s.fstate = .seekingHeader) (hp : s.pos = 0#5) (hbytes : s.contents = frame ++ rest)
    (hlen : frame.length = 32) (h0 : frame[0]? = some Config.hdr0) (h1 : frame[1]? = some Config.hdr1) :
    ∃ t b, s.Collected frame rest 31 t ∧ frame[31]? = some b ∧ t.contents = b :: rest := by
  obtain ⟨t, ht⟩ := h.exists_collected hf hp hbytes hlen h0 h1 31 le_rfl
  obtain ⟨b, hb⟩ : ∃ b, frame[31]? = some b := ⟨_, List.getElem?_eq_getElem (by omega)⟩
  refine ⟨t, b, ht, hb, ?_⟩
  rw [ht.contents_eq_cons hb, List.drop_of_length_le (by omega), List.nil_append]

/-- Settles O33: the 32nd micro-step finds no header pair in the whole candidate, so the framer emits it. -/
theorem validFrameIsEmitted : Obligations.ValidFrameIsEmitted := by
  intro s frame rest hs hp hin hf hpos hbytes hlen h0 h1 hscan
  obtain ⟨t, b, ht, hb, hlast⟩ := State.PollAlone.exists_collected_last ⟨hs, hp, hin⟩ hf hpos hbytes hlen h0 h1
  have hcand := ht.candidate hb
  have hc : t.takeByte.framerConsume b = ((t.takeByte.storeAcc 31 b).emit, .frame) := by
    rw [State.framerConsume_accumulating (s := t.takeByte) ht.fstate]
    exact State.accumulate_emit ht.pos fun he => hscan ((hasEmbeddedHeader_iff_of_list hcand).1 he)
  obtain ⟨hstep, hrest, hfault⟩ := ht.alone.step_of_frame hlast hc
  refine ⟨_, State.steps_succ_last ht.steps hstep, rfl, rfl, rfl, fun i hi => ?_, hrest, rfl, rfl,
    hfault.trans ht.fault_kept⟩
  rw [hcand i hi, State.endPoll_frameByte, State.frameByte_emit _ hi, State.accByte_storeAcc_last]
  rfl

/-- Settles O34: the 32nd micro-step finds the pair in the whole candidate, so the framer rejects it. -/
theorem embeddedHeaderFrameIsLost : Obligations.EmbeddedHeaderFrameIsLost := by
  intro s frame rest hs hp hin hf hpos hbytes hlen h0 h1 hscan
  obtain ⟨t, b, ht, hb, hlast⟩ := State.PollAlone.exists_collected_last ⟨hs, hp, hin⟩ hf hpos hbytes hlen h0 h1
  have hc : t.takeByte.framerConsume b = ((t.takeByte.storeAcc 31 b).reject, .consumed) := by
    rw [State.framerConsume_accumulating (s := t.takeByte) ht.fstate]
    exact State.accumulate_reject ht.pos ((hasEmbeddedHeader_iff_of_list (ht.candidate hb)).2 hscan)
  obtain ⟨hstep, halone, hrest, hfault⟩ := ht.alone.step_of_consumed hlast hc
  exact ⟨_, State.steps_succ_last ht.steps hstep, halone.inFlight, hrest, rfl, rfl, ht.frame_kept.1,
    ht.frame_kept.2, hfault.trans ht.fault_kept⟩

end Sys2Proof.Machine
end

section
/-!
PROOFS. A poll that is fed forever (70_reset_and_hazards.md R186; 40_receiver_fifo.md R104): each byte arrives in time
for the next micro-step, and none of them starts a frame, so the poll neither finds the FIFO empty nor emits.
-/
namespace Sys2Proof.Machine

/-- A poll alone that has found no part of a frame and holds no byte that could start one. -/
structure State.PollSeeks (s : State) : Prop extends s.PollAlone where
  seeking : s.fstate = .seekingHeader
  at_start : s.pos = 0#5
  no_hdr0 : ∀ b ∈ s.contents, b ≠ Config.hdr0

/-- A full buffer holds a byte, since it has at least two slots (R6). -/
theorem State.contents_ne_nil_of_full {s : State} (hs : s.Inv) (hfull : s.isFull = true) : s.contents ≠ [] := by
  intro hnil
  have hcount := (s.isFull_iff_count hs.head_lt hs.tail_lt).1 hfull
  have hcap := s.two_le_cap
  rw [← s.length_contents, hnil, List.length_nil] at hcount
  omega

/-- With no other action to come a byte the link delivers is pushed by the next step (R103). -/
theorem step_arrive_pushOf {s : State} (hin : s.inputs = []) (b : Byte) :
    step (s.arrive [pushOf b]) = exec (.rxPush b) s := by
  have harrived : (s.arrive [pushOf b]).inputs = [.command .p (encode (.rxPush b))] := by simp [hin, pushOf]
  have hrest : { s.arrive [pushOf b] with inputs := [] } = s := by
    change { s with inputs := [] } = s
    rw [← hin]
  rw [step_of_command harrived (fun h => by cases h), hrest]
  exact State.issue_encode s rfl

/-- Feeding the poll: whether the byte is accepted or dropped, the poll then has a byte to consume. -/
theorem State.PollSeeks.step_of_push {s : State} (h : s.PollSeeks) {b : Byte} (hb : b ≠ Config.hdr0) :
    ∃ t, step (s.arrive [pushOf b]) = .next t ∧ t.PollSeeks ∧ t.contents ≠ [] := by
  rw [step_arrive_pushOf h.no_action]
  cases hfull : s.isFull with
  | true =>
    have hbytes : (s.returned .p 0#32).contents = s.contents := (s.sameBlock_returned _ _).contents
    exact ⟨_, execRxPush_of_full b hfull,
      { inv := h.inv.returned_p _, inFlight := h.inFlight, no_action := h.no_action, seeking := h.seeking
        at_start := h.at_start, no_hdr0 := hbytes ▸ h.no_hdr0 },
      hbytes.trans_ne (State.contents_ne_nil_of_full h.inv hfull)⟩
  | false =>
    have hbytes : ((s.acceptByte b).returned .p 1#32).contents = s.contents ++ [b] :=
      (State.sameBlock_returned _ _ _).contents.trans (State.contents_acceptByte h.inv hfull b)
    refine ⟨_, execRxPush_of_free b hfull h.inv.head_lt,
      { inv := (h.inv.acceptByte hfull b).returned_p _, inFlight := h.inFlight, no_action := h.no_action
        seeking := h.seeking, at_start := h.at_start, no_hdr0 := ?_ }, by simp [hbytes]⟩
    rw [hbytes, List.forall_mem_append, List.forall_mem_singleton]
    exact ⟨h.no_hdr0, hb⟩

/-- A byte held that is no first header byte leaves the poll seeking (R121). -/
theorem State.PollSeeks.step_of_held {s : State} (h : s.PollSeeks) (hne : s.contents ≠ []) :
    ∃ t, step s = .next t ∧ t.PollSeeks := by
  obtain ⟨b, bs, hbytes⟩ := List.exists_cons_of_ne_nil hne
  have hno := h.no_hdr0
  rw [hbytes, List.forall_mem_cons] at hno
  obtain ⟨hb, hbs⟩ := hno
  have hc : s.takeByte.framerConsume b = (s.takeByte.setPos 0#5, .consumed) := by
    rw [State.framerConsume_seeking (s := s.takeByte) h.seeking,
      State.seekHeader_of_no_header (s := s.takeByte) hb fun hpos => absurd h.at_start hpos]
  obtain ⟨hstep, halone, hrest, -⟩ := h.step_of_consumed hbytes hc
  exact ⟨_, hstep, { halone with seeking := h.seeking, at_start := rfl, no_hdr0 := hrest ▸ hbs }⟩

/-- The draw in which the link delivers the bytes of a sequence without end, one before every second step. -/
def feedEverySecondStep (bytes : Nat → Byte) : Draw :=
  linkDraw fun k => if k % 2 = 0 then some (bytes (k / 2)) else none

theorem feedEverySecondStep_even {bytes : Nat → Byte} {n : Nat} (h : n % 2 = 0) :
    feedEverySecondStep bytes n = [pushOf (bytes (n / 2))] := by
  simp [feedEverySecondStep, linkDraw, linkDelivers, h]

theorem feedEverySecondStep_odd {bytes : Nat → Byte} {n : Nat} (h : n % 2 = 1) :
    feedEverySecondStep bytes n = [] := by
  simp [feedEverySecondStep, linkDraw, linkDelivers, h]

/-- The poll fed so seeks on, by induction on the number of steps: after an odd number of them, when none is delivered,
a byte is held for the micro-step that comes. -/
theorem State.PollSeeks.run_feedEverySecondStep {s : State} (h : s.PollSeeks) {bytes : Nat → Byte}
    (hbytes : ∀ k, bytes k ≠ Config.hdr0) (n : Nat) :
    ∃ t, s.run (feedEverySecondStep bytes) n = some t ∧ t.PollSeeks ∧ (n % 2 = 1 → t.contents ≠ []) := by
  induction n with
  | zero => exact ⟨s, rfl, h, fun hodd => by omega⟩
  | succ n ih =>
    obtain ⟨t, hrun, ht, hheld⟩ := ih
    obtain heven | hodd := Nat.mod_two_eq_zero_or_one n
    · obtain ⟨u, hstep, hu, hne⟩ := ht.step_of_push (hbytes (n / 2))
      rw [← feedEverySecondStep_even heven] at hstep
      exact ⟨u, State.run_succ hrun hstep, hu, fun _ => hne⟩
    · obtain ⟨u, hstep, hu⟩ := ht.step_of_held (hheld hodd)
      rw [← t.arrive_nil, ← feedEverySecondStep_odd (bytes := bytes) hodd] at hstep
      exact ⟨u, State.run_succ hrun hstep, hu, fun hodd' => by omega⟩

/-- Settles O54: a poll that seeks on is in flight, and a poll in flight has returned nothing (R38). -/
theorem pollFedForeverDoesNotReturn : Obligations.PollFedForeverDoesNotReturn := by
  intro s bytes hs hp hin hf hpos hno hbytes n
  have hseeks : s.PollSeeks :=
    { inv := hs, inFlight := hp, no_action := hin, seeking := hf, at_start := hpos, no_hdr0 := hno }
  obtain ⟨t, hrun, ht, -⟩ := hseeks.run_feedEverySecondStep hbytes n
  exact ⟨t, hrun, ht.inFlight, ht.inv.poll_no_result ht.inFlight⟩

end Sys2Proof.Machine
end

section
/-!
PROOFS. The host's reset and the entry state (70_reset_and_hazards.md R180, R181).
-/
namespace Sys2Proof.Machine

/-- From any state, with a poll in flight too, a reset is one step (R180). -/
theorem step_of_reset {s : State} {rest : List AgentAction} (hin : s.inputs = .reset :: rest) :
    step s = .next { s with inputs := rest }.hostReset := by
  simp [step, State.agentStep, hin]

/-- With no command in progress and no action to come the block waits (R181; log 2). -/
theorem step_of_idle {s : State} (hin : s.inputs = []) (hp : s.pollInFlight = false) : step s = .next s := by
  simp [step, State.agentStep, State.pollTurn, hin, hp]

/-- An empty buffer is not full, since it has at least two slots (R6). -/
theorem State.isFull_hostReset (s : State) : s.hostReset.isFull = false := by
  have hcap := s.two_le_cap
  rw [State.isFull_eq_false_iff, State.hostReset_cap]
  simp [Nat.mod_eq_of_lt hcap]

theorem statusField_zero (w lo : Nat) : statusField 0#w lo = 0#32 := by
  simp [statusField]

/-- Every field of the status word is 0 in the entry state (R36, R181). -/
theorem State.statusWord_hostReset (s : State) : s.hostReset.statusWord = 0#32 := by
  have havail : s.hostReset.avail = false := rfl
  simp [State.statusWord, s.isFull_hostReset, havail, FramerState.bit, statusField_zero]

/-- The array reads of the entry state are the free bytes of the epoch the reset begins (R180; log 5). -/
theorem State.bytes_hostReset (s : State) (i : Nat) :
    s.hostReset.fifoByte i = Config.unspecifiedByte .fifo (s.epoch + 1) i ∧
      s.hostReset.accByte i = Config.unspecifiedByte .accbuf (s.epoch + 1) i ∧
      s.hostReset.frameByte i = Config.unspecifiedByte .frame (s.epoch + 1) i :=
  ⟨rfl, rfl, rfl⟩

/-- Settles O11: the step is the reset, which leaves the buffer empty and the block idle. -/
theorem hostResetEntryState : Obligations.HostResetEntryState := by
  intro s rest hin
  refine ⟨_, step_of_reset hin, rfl, rfl, ?_, rfl, rfl, rfl, rfl, ?_, rfl, fun hrest => step_of_idle hrest rfl⟩
  · exact fifoAvailResult _
  · rw [exec_statusRead, State.statusWord_hostReset]
    rfl

/-- Settles O12: the step is the reset, which sets each of these. -/
theorem hostResetSetsState : Obligations.HostResetSetsState := fun _ _ hin =>
  ⟨_, step_of_reset hin, rfl, rfl, rfl, rfl, rfl, rfl, rfl, rfl, rfl, rfl, rfl, State.bytes_hostReset _⟩

/-- The state after reset differs from one that a host reset leaves only in the epoch, of which the invariant reads
nothing while the framer is at position 0 and no frame is held. -/
theorem State.inv_reset : State.reset.Inv :=
  { State.reset.inv_hostReset with
    acc_hdr0 := fun h => absurd h (by decide)
    acc_hdr1 := fun h => absurd h (by decide)
    frame_hdr := fun h => by cases h
    frame_scan := fun h => by cases h }

/-- Settles O13: as after a host reset. -/
theorem resetMeetsInvariant : Obligations.ResetMeetsInvariant :=
  ⟨State.inv_reset, State.reset.statusWord_hostReset,
    (State.reset.contents_eq_nil_iff State.inv_reset.head_lt State.inv_reset.tail_lt).2 rfl⟩

end Sys2Proof.Machine
end

section
/-!
PROOFS. The step that takes a command (10_state.md R20, R38; 20_memory.md R59; 30_encoding.md R73): the next action of
the list, and a word placed in front of that list (log 10).
-/
namespace Sys2Proof.Machine

/-- Settles O8: the step issues the word, which is the one of the operation it decodes to, on that operation's port. -/
theorem stepRunsDecodedCommand : Obligations.StepRunsDecodedCommand := by
  intro s port w rest i hin hp hdec
  obtain ⟨hport, rfl⟩ := decode_ok hdec
  exact (step_of_command hin hp).trans (State.issue_encode _ hport.symm)

/-- A placed command is issued at once, and leaves the list of actions as it was before the placing. -/
theorem step_placeCommand (s : State) (port : Port) (w : CommandWord) :
    step (s.placeCommand port w) =
      { s with pollInFlight := if port = Port.q then false else s.pollInFlight }.issue port w :=
  step_of_command (s.placeCommand_inputs port w) fun hq => if_pos hq

/-- `OP = 0x1` is the only operation of the P port (R73). -/
theorem portOfWord_encode (i : Instr) : portOfWord (encode i) = i.port := by
  cases i with
  | rxPush b => rw [portOfWord, encode, opField_commandWord, if_pos rfl, Instr.port]
  | _ => rw [portOfWord, encode, opField_commandWord, if_neg (by decide), Instr.port]

theorem encode_of_decodeTableWord {nbits w : Nat} {i : Instr} (h : decodeTableWord nbits w = some i) :
    encode i = tableWord nbits w := by
  simp only [decodeTableWord] at h
  split at h
  · split at h
    · cases h; exact encode_of_decodeWord ‹_›
    · cases h
  · cases h

/-- A placed table word of any width runs its operation on that operation's port. -/
theorem step_withFetchWord (s : State) {nbits w : Nat} {i : Instr} (h : decodeTableWord nbits w = some i) :
    step (s.withFetchWord nbits w) =
      exec i { s with pollInFlight := if i.port = .q then false else s.pollInFlight } := by
  rw [State.withFetchWord, ← encode_of_decodeTableWord h, portOfWord_encode, step_placeCommand,
    State.issue_encode _ rfl]

/-- Settles O9: the placed word is the one of the operation it decodes to, and the step issues it. -/
theorem placedWordRuns : Obligations.PlacedWordRuns :=
  fun s _ _ h => step_withFetchWord s h

end Sys2Proof.Machine
end
